-- ==== Sys2Proof/Word.lean ====
section
/-! DEFINITION. The three widths of the engine (00_scope.md section 4): byte, 16-bit word, 32-bit register. -/

namespace Sys2Proof

/-- A byte, 8 bits. -/
abbrev Byte := BitVec 8

/-- A 16-bit word of the stream formats: control word, raw word, header field, the bit queue. -/
abbrev Half := BitVec 16

/-- A 32-bit value on the host's side of the register block (10_state.md section 4). -/
abbrev Word := BitVec 32

end Sys2Proof
end

