-- ==== Sys2Proof/Config.lean ====
section
/-! DEFINITION. What an implementation fixes (00_scope.md R6) and the values the spec leaves open
(93_implementation_defined.md U1 to U4, 90_conflicts.md C8). A free value is an opaque constant: nothing can be proved of it but its width. -/

namespace Sys2Proof

/-- The two parameters of R6. They are configuration (R27): every step leaves them as they are. -/
structure Config.Params where
  /-- IN_CAP: capacity of IN in bytes, the largest legal ILEN. -/
  inCap : Nat
  /-- OUT_CAP: capacity of OUT in bytes. -/
  outCap : Nat
  deriving DecidableEq, Repr

/-- The defaults of R6: IN_CAP = 65535, OUT_CAP = 257 * IN_CAP. -/
def Config.default : Config.Params := { inCap := 65535, outCap := 257 * 65535 }

/-- The bounds R6 puts on the parameters. -/
abbrev Config.Params.legal (p : Config.Params) : Prop :=
  6 ≤ p.inCap ∧ p.inCap ≤ 2 ^ 23 ∧ p.outCap < 2 ^ 32

/-- HDR_LEN (R6): the HSQ header's length in bytes. -/
def Config.hdrLen : Nat := 6

/-- HSQ_SIG (R6): what the six header bytes sum to, modulo 256. -/
def Config.hsqSig : Byte := 0xAB

/-- F7_CTL (R6): the F7 control byte. -/
def Config.f7Ctl : Byte := 0xF7

/-- F7_DEC_MIN (R6): the decoder expands a run triple whose count is above this. -/
def Config.f7DecMin : Nat := 2

/-- F7_ENC_MIN (R6): the encoder writes a run triple for a run longer than this. -/
def Config.f7EncMin : Nat := 3

/-- F7_RUN_MAX (R6): the largest run count in one triple. -/
def Config.f7RunMax : Nat := 255

/-- CUR after a fault (U2), for the n-th draw. -/
opaque Config.freeCur : Nat → Word

/-- OLEN after a fault (U2), for the n-th draw. -/
opaque Config.freeOlen : Nat → Word

/-- Q after a fault (U2), for the n-th draw. -/
opaque Config.freeQ : Nat → Half

/-- What an unspecified host read returns (U3, U1), for the n-th draw. -/
opaque Config.freeRead : Nat → Word

/-- Contents of IN at an index nothing has written since reset (U4): generation, index. -/
opaque Config.freeInByte : Nat → Nat → Byte

/-- The compressed_size a writer puts in a header whose file is too long for the field (90_conflicts.md C8), for the
body's length (notes/assumptions 16). -/
opaque Config.freeCompressedSize : Nat → Half

/-- Contents of OUT at an index nothing has written since reset or a fault (U2, U4): generation, index. -/
opaque Config.freeOutByte : Nat → Nat → Byte

end Sys2Proof
end

