-- ==== Sys2Proof/Syntax.lean ====
section
/-! DEFINITION. The elements spec/opcode_table.json gives a row each (30_encoding.md R79), with their operands. -/

namespace Sys2Proof

/-- The operation codes of CTRL.OP (10_state.md R16, 30_encoding.md R73). All four are legal. -/
inductive OpCode where
  /-- 0: `hsq_decompress` (R141). -/
  | hsqDec
  /-- 1: `hsq_get_sizes` (R142). -/
  | hsqSizes
  /-- 2: `f7_decompress` (R143). -/
  | f7Dec
  /-- 3: `f7_compress` (R144). -/
  | f7Enc
  deriving DecidableEq, Repr

/-- One constructor per row of the opcode table. -/
inductive Instr where
  /-- LIT (R65, R102): a literal byte. -/
  | lit (b : Byte)
  /-- LIT.stop (R65, R103): the literal prefix as a stop signal, no raw byte. -/
  | litStop
  /-- LONG (R67, R104): 13-bit offset field and inline count. -/
  | long (field : BitVec 13) (count : BitVec 3)
  /-- LONGX (R68, R105): 13-bit offset field and extra count byte. -/
  | longx (field : BitVec 13) (extra : Byte)
  /-- EOF (R69, R106): the offset field is carried and never examined. -/
  | eof (field : BitVec 13)
  /-- SHORT (R66, R107): 2-bit count and offset byte. -/
  | short (count : BitVec 2) (b : Byte)
  /-- ESC (R74, R121): the triple F7 01 F7. -/
  | esc
  /-- RUN (R74, R122): the triple F7 NN VV. -/
  | run (nn vv : Byte)
  /-- BYTE (R74, R123): a literal with at least 3 bytes remaining. -/
  | byte (b : Byte)
  /-- TAIL (R74, R124): a literal with 1 or 2 bytes remaining. -/
  | tail (b : Byte)
  /-- ERUN (R76, R131): run length and value. -/
  | erun (r v : Byte)
  /-- EESC (R76, R132): escape one control byte. -/
  | eesc
  /-- EBYTE (R76, R133): pass one byte through. -/
  | ebyte (v : Byte)
  /-- HSQ_DEC (R141): CTRL write with START = 1 and OP = 0. -/
  | hsqDec
  /-- HSQ_SIZES (R142): CTRL write with START = 1 and OP = 1. -/
  | hsqSizes
  /-- F7_DEC (R143): CTRL write with START = 1 and OP = 2. -/
  | f7Dec
  /-- F7_ENC (R144): CTRL write with START = 1 and OP = 3. -/
  | f7Enc
  /-- CLEAR (R145): CTRL write with CLEAR = 1 and START = 0; the OP bits are stored. -/
  | clear (op : OpCode)
  deriving DecidableEq, Repr

end Sys2Proof
end

