-- ==== Sys2Proof/WellFormed.lean ====
section
/-! DEFINITION. Which terms of Instr some encoding stands for: the conditions the opcode table puts on operands. -/

namespace Sys2Proof

/-- The operand conditions of R67, R68, R74, R76. Every other operand may take any value (R71). -/
def Instr.wf : Instr → Bool
  | .long _ count => count != 0
  | .longx _ extra => extra != 0
  | .run nn _ => decide (Config.f7DecMin < nn.toNat)
  | .erun r _ => decide (Config.f7EncMin < r.toNat)
  | .ebyte v => v != Config.f7Ctl
  | .lit _ | .litStop | .eof _ | .short _ _ => true
  | .esc | .byte _ | .tail _ | .eesc => true
  | .hsqDec | .hsqSizes | .f7Dec | .f7Enc | .clear _ => true

end Sys2Proof
end

