-- ==== Sys2Proof/Decode.lean ====
section
/-! DEFINITION. Reading instructions out of bytes: the Bit Reader (40_bit_reader.md), the HSQ command decoder
(41_hsq_decode.md R101 to R107), the F7 element selections (42_f7_decode.md R120, 43_f7_encode.md R130), the CTRL
write (10_state.md R16); and after them the encoder, which for HSQ commands is the Bit Writer
(45_hsq_writer_and_encoder_reference.md R160 to R166). -/

namespace Sys2Proof

/-! ## Buffers and positions -/

/-- The buffer of the document's `{buffer, cursor, queue}`: `len(data)` and `data[i]`. A byte at or beyond `len` is
never used by a rule (R46). -/
structure Buffer where
  len : Nat
  byte : Nat → Byte

/-- A list of bytes as a buffer. -/
def Buffer.ofList (l : List Byte) : Buffer := { len := l.length, byte := fun i => l.getD i 0 }

/-- The position in the input, the pair (CUR, Q) that stands for a program counter (R29). -/
structure Pos where
  cur : Nat
  q : Half
  deriving DecidableEq, Repr

/-- A read that does not fit: the index of its first byte and the bytes it needed (R182). -/
structure Trunc where
  addr : Nat
  need : Nat
  deriving DecidableEq, Repr

/-- Little-endian: the byte at the lower index is the low byte (R41). -/
def halfOf (lo hi : Byte) : Half := hi ++ lo

/-- The low byte of a word, which is stored first (R41). -/
def loByte (w : Half) : Byte := w.setWidth 8

/-- The high byte of a word, which is stored second (R41). -/
def hiByte (w : Half) : Byte := (w >>> 8).setWidth 8

/-- The byte a table word or a register value holds at byte place k. -/
def byteAt (w k : Nat) : Byte := BitVec.ofNat 8 (w / 2 ^ (8 * k))

/-- `MemRead(IN, a, 2)` (R41, R46). -/
def Buffer.half (d : Buffer) (a : Nat) : Half := halfOf (d.byte a) (d.byte (a + 1))

/-! ## The Bit Reader -/

/-- The queue after a refill from w: the sentinel at bit 15, w's bits 15..1 below it (R90). -/
def refillQ (w : Half) : Half := 0x8000 ||| (w >>> 1)

/-- `GetBit()` (R90): shift first, then test for zero (90_conflicts.md C1). -/
def getBit (d : Buffer) (p : Pos) : Except Trunc (Bool × Pos) :=
  if p.q >>> 1 = 0 then
    if p.cur + 2 > d.len then .error { addr := p.cur, need := 2 }
    else .ok ((d.half p.cur).getLsbD 0, { cur := p.cur + 2, q := refillQ (d.half p.cur) })
  else .ok (p.q.getLsbD 0, { cur := p.cur, q := p.q >>> 1 })

/-- `ReadByte()` (R91). -/
def readByte (d : Buffer) (p : Pos) : Except Trunc (Byte × Pos) :=
  if p.cur + 1 > d.len then .error { addr := p.cur, need := 1 }
  else .ok (d.byte p.cur, { p with cur := p.cur + 1 })

/-- `ReadWord()` (R92). -/
def readWord (d : Buffer) (p : Pos) : Except Trunc (Half × Pos) :=
  if p.cur + 2 > d.len then .error { addr := p.cur, need := 2 }
  else .ok (d.half p.cur, { p with cur := p.cur + 2 })

/-- The k-fold `GetBit()`: the bits returned, first one first, and the position after. -/
def getBits (d : Buffer) : Nat → Pos → Except Trunc (List Bool × Pos)
  | 0, p => .ok ([], p)
  | k + 1, p =>
    match getBit d p with
    | .error e => .error e
    | .ok (b, p1) =>
      match getBits d k p1 with
      | .error e => .error e
      | .ok (bs, p2) => .ok (b :: bs, p2)

/-! ## HSQ commands -/

/-- The offset field F = w[15:3] of a long reference word (R67). -/
def longField (w : Half) : BitVec 13 := w.extractLsb' 3 13

/-- The count field w[2:0] of a long reference word (R67). -/
def longCount (w : Half) : BitVec 3 := w.extractLsb' 0 3

/-- The 2-bit count of SHORT from its control bits, high bit first (R43, R93). -/
def countOf (c1 c0 : Bool) : BitVec 2 := BitVec.ofBool c1 ++ BitVec.ofBool c0

/-- The long family after control bits 0, 1 (R104): the raw word, then the extra byte if w[2:0] = 0. -/
def decodeLong (d : Buffer) (p : Pos) : Except Trunc (Instr × Pos) :=
  match readWord d p with
  | .error e => .error e
  | .ok (w, p1) =>
    if longCount w ≠ 0 then .ok (.long (longField w) (longCount w), p1)
    else
      match readByte d p1 with
      | .error e => .error e
      | .ok (x, p2) =>
        if x = 0 then .ok (.eof (longField w), p2) else .ok (.longx (longField w) x, p2)

/-- SHORT after control bits 0, 0 (R107): both count bits, then the offset byte. -/
def decodeShort (d : Buffer) (p : Pos) : Except Trunc (Instr × Pos) :=
  match getBit d p with
  | .error e => .error e
  | .ok (c1, p1) =>
    match getBit d p1 with
    | .error e => .error e
    | .ok (c0, p2) =>
      match readByte d p2 with
      | .error e => .error e
      | .ok (b, p3) => .ok (.short (countOf c1 c0) b, p3)

/-- LIT after control bit 1 (R102, R103): `full` says OLEN >= DSIZE at that moment, and then no byte is read. -/
def decodeLit (d : Buffer) (full : Bool) (p : Pos) : Except Trunc (Instr × Pos) :=
  if full then .ok (.litStop, p)
  else
    match readByte d p with
    | .error e => .error e
    | .ok (b, p1) => .ok (.lit b, p1)

/-- One HSQ command (R101): control bits until the prefix is complete, then its raw operand. -/
def decodeHsq (d : Buffer) (full : Bool) (p : Pos) : Except Trunc (Instr × Pos) :=
  match getBit d p with
  | .error e => .error e
  | .ok (true, p1) => decodeLit d full p1
  | .ok (false, p1) =>
    match getBit d p1 with
    | .error e => .error e
    | .ok (true, p2) => decodeLong d p2
    | .ok (false, p2) => decodeShort d p2

/-! ## F7 elements -/

/-- One F7 decoder element (R120, R74). None when nothing remains, and the operation finishes (R125). The window's
bytes are looked at only when at least 3 remain. -/
def decodeF7 (d : Buffer) (cur : Nat) : Option Instr :=
  if d.len ≤ cur then none
  else if d.len - cur ≥ 3 ∧ d.byte cur = Config.f7Ctl ∧ d.byte (cur + 1) = 0x01 ∧ d.byte (cur + 2) = Config.f7Ctl then
    some .esc
  else if d.len - cur ≥ 3 ∧ d.byte cur = Config.f7Ctl ∧ (d.byte (cur + 1)).toNat > Config.f7DecMin then
    some (.run (d.byte (cur + 1)) (d.byte (cur + 2)))
  else if d.len - cur ≥ 3 then some (.byte (d.byte cur))
  else some (.tail (d.byte cur))

/-- The while loop of R130 with the steps it may still take: from a measure of r, count on. -/
def measureFrom (d : Buffer) (cur : Nat) (v : Byte) : Nat → Nat → Nat
  | 0, r => r
  | k + 1, r => if cur + r < d.len ∧ d.byte (cur + r) = v then measureFrom d cur v k (r + 1) else r

/-- The run measure of R130: how many bytes equal to IN[CUR] stand at CUR, at most 255. -/
def measure (d : Buffer) (cur : Nat) : Nat := measureFrom d cur (d.byte cur) (Config.f7RunMax - 1) 1

/-- One F7 encoder element (R130). None when nothing remains, and the operation finishes (R134). -/
def selectF7 (d : Buffer) (cur : Nat) : Option Instr :=
  if d.len ≤ cur then none
  else if measure d cur > Config.f7EncMin then some (.erun (BitVec.ofNat 8 (measure d cur)) (d.byte cur))
  else if d.byte cur = Config.f7Ctl then some .eesc
  else some (.ebyte (d.byte cur))

/-! ## CTRL writes -/

/-- The code of an operation in CTRL.OP and OPL (R16, R73). -/
def OpCode.bits : OpCode → BitVec 2
  | .hsqDec => 0
  | .hsqSizes => 1
  | .f7Dec => 2
  | .f7Enc => 3

/-- The operation a 2-bit code names; no code is reserved (R16). -/
def OpCode.ofBits (b : BitVec 2) : OpCode :=
  if b = 0 then .hsqDec else if b = 1 then .hsqSizes else if b = 2 then .f7Dec else .f7Enc

/-- CTRL.OP of a written value: bits [1:0] (R16). -/
def ctrlOpOf (v : Word) : OpCode := OpCode.ofBits (v.setWidth 2)

/-- The instruction that launches an operation. -/
def startOf : OpCode → Instr
  | .hsqDec => .hsqDec
  | .hsqSizes => .hsqSizes
  | .f7Dec => .f7Dec
  | .f7Enc => .f7Enc

/-- The host operation a CTRL write asks for (R16): START is bit 8 and wins over CLEAR, bit 9. None when both are 0:
such a write only stores OP. Bits not named are ignored. -/
def decodeCtrl (v : Word) : Option Instr :=
  if v.getLsbD 8 then some (startOf (ctrlOpOf v))
  else if v.getLsbD 9 then some (.clear (ctrlOpOf v))
  else none

/-! ## One decoder for any bytes -/

/-- Where bytes are read as instructions: the spaces of the opcode table (R79). -/
inductive Space where
  /-- The HSQ body from a fresh control word; `full` is OLEN >= DSIZE. -/
  | hsq (full : Bool)
  /-- An F7 stream. -/
  | f7d
  /-- Plain data under the F7 encoder. -/
  | f7e
  /-- A 32-bit value written to CTRL, low byte first. -/
  | ctrl
  deriving DecidableEq, Repr

/-- Why bytes are no instruction. -/
inductive Reject where
  /-- An HSQ command is cut short: TruncatedStream (R182). -/
  | truncated (t : Trunc)
  /-- No byte remains: the F7 operation finishes (R125, R134). -/
  | endOfInput
  /-- The CTRL write has START = 0 and CLEAR = 0 (R16). -/
  | noOperation
  /-- Fewer than the four bytes of a CTRL value. -/
  | shortValue
  deriving DecidableEq, Repr

/-- An option as a result, a missing instruction rejected under the name given. -/
def rejectNone (r : Reject) : Option Instr → Except Reject Instr
  | some i => .ok i
  | none => .error r

/-- The instruction at the start of the bytes. -/
def decode (sp : Space) (l : List Byte) : Except Reject Instr :=
  match sp with
  | .hsq full =>
    match decodeHsq (Buffer.ofList l) full { cur := 0, q := 0 } with
    | .ok (i, _) => .ok i
    | .error t => .error (.truncated t)
  | .f7d => rejectNone .endOfInput (decodeF7 (Buffer.ofList l) 0)
  | .f7e => rejectNone .endOfInput (selectF7 (Buffer.ofList l) 0)
  | .ctrl =>
    match l with
    | b0 :: b1 :: b2 :: b3 :: _ => rejectNone .noOperation (decodeCtrl (b3 ++ b2 ++ b1 ++ b0))
    | _ => .error .shortValue

/-- The instruction of a table word, its bits numbered as the opcode table numbers them (R79). Up to 8 bits: an HSQ
control prefix P, laid out as the low bits of a fresh control word with raw operand bytes of 0 (and OLEN < DSIZE). Up to
16 bits: a CTRL value. Up to 24 bits: the F7 triple T, whose first byte is T[23:16]. -/
def decodeTableWord (nbits w : Nat) : Option Instr :=
  if nbits = 0 then none
  else if nbits ≤ 8 then (decode (.hsq false) [byteAt w 0, 0, 0, 0, 0]).toOption
  else if nbits ≤ 16 then (decode .ctrl [byteAt w 0, byteAt w 1, 0, 0]).toOption
  else if nbits ≤ 24 then (decode .f7d [byteAt w 2, byteAt w 1, byteAt w 0]).toOption
  else none

/-! ## The Bit Writer -/

/-- The Bit Writer's state (R160): bytes so far, the reserved slot, accumulator and bit count. -/
structure Writer where
  buf : List Byte
  slot : Option Nat
  acc : Half
  nbits : Nat
  deriving DecidableEq, Repr

/-- R160: initially `buf` is empty and `slot` none. R160 gives `acc` and `nbits` no initial value: both are 0 here by
DESIGN CHOICE (notes/assumptions 17), which nothing can see, since the first `write_bit` sets them. -/
def Writer.empty : Writer := { buf := [], slot := none, acc := 0, nbits := 0 }

/-- A word written into the reserved slot, little-endian. -/
def Writer.backpatch (buf : List Byte) (slot : Nat) (acc : Half) : List Byte :=
  (buf.set slot (loByte acc)).set (slot + 1) (hiByte acc)

/-- The first part of `write_bit` (R161): reserve a slot when none is open. -/
def Writer.reserve (w : Writer) : Writer :=
  match w.slot with
  | some _ => w
  | none => { buf := w.buf ++ [0, 0], slot := some w.buf.length, acc := 0, nbits := 0 }

/-- The second part of `write_bit` (R161): accumulate low bit first, commit at 16 bits. -/
def Writer.accumulate (b : Bool) (w : Writer) : Writer :=
  let acc := w.acc ||| ((BitVec.ofBool b).setWidth 16 <<< w.nbits)
  if w.nbits + 1 = 16 then
    { buf := Writer.backpatch w.buf (w.slot.getD 0) acc, slot := none, acc := acc, nbits := 16 }
  else { w with acc := acc, nbits := w.nbits + 1 }

/-- `write_bit(b)` (R161). -/
def Writer.writeBit (b : Bool) (w : Writer) : Writer := w.reserve.accumulate b

/-- `write_byte(v)` (R162). -/
def Writer.writeByte (v : Byte) (w : Writer) : Writer := { w with buf := w.buf ++ [v] }

/-- `write_word(v)` (R163). -/
def Writer.writeHalf (v : Half) (w : Writer) : Writer := { w with buf := w.buf ++ [loByte v, hiByte v] }

/-- The writer after `finish()` (R164): an open slot is patched with `acc`, whose unused high bits are 0, and closed. -/
def Writer.closed (w : Writer) : Writer :=
  match w.slot with
  | some s => { w with buf := Writer.backpatch w.buf s w.acc, slot := none }
  | none => w

/-- `finish()` (R164): the bytes it returns, and the writer it leaves. -/
def Writer.finish (w : Writer) : List Byte × Writer := (w.closed.buf, w.closed)

/-- The control bits of an HSQ command, first extracted first (R64 to R69); none for any other instruction. -/
def Instr.bits : Instr → List Bool
  | .lit _ | .litStop => [true]
  | .long _ _ | .longx _ _ | .eof _ => [false, true]
  | .short count _ => [false, false, count.getLsbD 1, count.getLsbD 0]
  | .esc | .run _ _ | .byte _ | .tail _ | .erun _ _ | .eesc | .ebyte _ => []
  | .hsqDec | .hsqSizes | .f7Dec | .f7Enc | .clear _ => []

/-- The raw word of a long reference: the field in bits [15:3], the count in bits [2:0] (R67). -/
def longWord (field : BitVec 13) (count : BitVec 3) : Half := field ++ count

/-- The raw operand bytes of an HSQ command, in stream order (R64 to R69); none for any other instruction. -/
def Instr.raw : Instr → List Byte
  | .lit b => [b]
  | .litStop => []
  | .long field count => [loByte (longWord field count), hiByte (longWord field count)]
  | .longx field x => [loByte (longWord field 0), hiByte (longWord field 0), x]
  | .eof field => [loByte (longWord field 0), hiByte (longWord field 0), 0]
  | .short _ b => [b]
  | .esc | .run _ _ | .byte _ | .tail _ | .erun _ _ | .eesc | .ebyte _ => []
  | .hsqDec | .hsqSizes | .f7Dec | .f7Enc | .clear _ => []

/-- Serialisation of one command (R165): its control bits, then its raw bytes. -/
def Writer.command (w : Writer) (i : Instr) : Writer :=
  i.raw.foldl (fun w v => w.writeByte v) (i.bits.foldl (fun w b => w.writeBit b) w)

/-- `finish(serialise(L))`: the body a command list assembles to. -/
def assemble (l : List Instr) : List Byte := (l.foldl Writer.command Writer.empty).finish.1

/-- The `compressed_size` field of R61 and R166: 6 + body_len. What a writer puts there when the file is longer than
65535 bytes is left open (90_conflicts.md C8, 91_not_in_source.md N14): a free value (DESIGN CHOICE, notes/assumptions
16). -/
def compressedSize (bodyLen : Nat) : Half :=
  if 6 + bodyLen ≤ 65535 then BitVec.ofNat 16 (6 + bodyLen) else Config.freeCompressedSize bodyLen

/-- The header of R166 for N output bytes and a body: byte2 = 0 and byte5 solves the checksum for whatever
`compressedSize` is. -/
def headerOf (n bodyLen : Nat) : List Byte :=
  let h0 := byteAt n 0
  let h1 := byteAt n 1
  let h3 := loByte (compressedSize bodyLen)
  let h4 := hiByte (compressedSize bodyLen)
  [h0, h1, 0, h3, h4, Config.hsqSig - (h0 + h1 + h3 + h4)]

/-- The HSQ file of a command list declaring N output bytes: the directive `.hsq N` of R78. -/
def hsqFile (n : Nat) (l : List Instr) : List Byte := headerOf n (assemble l).length ++ assemble l

/-! ## Assembler forms with distance and length (R78, R70 inverse) -/

/-- `SHORT d=D n=N`. -/
def asmShort (d n : Nat) : Instr := .short (BitVec.ofNat 2 (n - 2)) (BitVec.ofNat 8 (256 - d))

/-- `LONG d=D n=N`. -/
def asmLong (d n : Nat) : Instr := .long (BitVec.ofNat 13 (8192 - d)) (BitVec.ofNat 3 (n - 2))

/-- `LONGX d=D n=N`. -/
def asmLongx (d n : Nat) : Instr := .longx (BitVec.ofNat 13 (8192 - d)) (BitVec.ofNat 8 (n - 2))

/-- `EOF`, the canonical marker `LongRefExt(0, 0)`. -/
def asmEof : Instr := .eof 0

/-! ## The encoder -/

/-- The value of the CTRL write that asks for a host operation; 0 for any other instruction. -/
def ctrlValue : Instr → Word
  | .hsqDec => 0x100
  | .hsqSizes => 0x101
  | .f7Dec => 0x102
  | .f7Enc => 0x103
  | .clear op => 0x200 ||| op.bits.setWidth 32
  | .lit _ | .litStop | .long _ _ | .longx _ _ | .eof _ | .short _ _ => 0
  | .esc | .run _ _ | .byte _ | .tail _ | .erun _ _ | .eesc | .ebyte _ => 0

/-- A 32-bit value's bytes, low byte first. -/
def wordBytes (v : Word) : List Byte := [byteAt v.toNat 0, byteAt v.toNat 1, byteAt v.toNat 2, byteAt v.toNat 3]

/-- The bytes the opcode table's encoding column gives an instruction: an HSQ command from a fresh control word (R64),
an F7 decoder element's stream bytes (R74), an F7 encoder element's output (R76), a host operation's CTRL value. -/
def encode : Instr → List Byte
  | .lit b => assemble [.lit b]
  | .litStop => assemble [.litStop]
  | .long field count => assemble [.long field count]
  | .longx field x => assemble [.longx field x]
  | .eof field => assemble [.eof field]
  | .short count b => assemble [.short count b]
  | .esc => [Config.f7Ctl, 0x01, Config.f7Ctl]
  | .run nn vv => [Config.f7Ctl, nn, vv]
  | .byte b => [b]
  | .tail b => [b]
  | .erun r v => [Config.f7Ctl, r, v]
  | .eesc => [Config.f7Ctl, 0x01, Config.f7Ctl]
  | .ebyte v => [v]
  | .hsqDec => wordBytes (ctrlValue .hsqDec)
  | .hsqSizes => wordBytes (ctrlValue .hsqSizes)
  | .f7Dec => wordBytes (ctrlValue .f7Dec)
  | .f7Enc => wordBytes (ctrlValue .f7Enc)
  | .clear op => wordBytes (ctrlValue (.clear op))

/-- The input bytes an F7 encoder element consumes (R131 to R133); none for any other instruction. -/
def Instr.source : Instr → List Byte
  | .erun r v => List.replicate r.toNat v
  | .eesc => [Config.f7Ctl]
  | .ebyte v => [v]
  | .lit _ | .litStop | .long _ _ | .longx _ _ | .eof _ | .short _ _ => []
  | .esc | .run _ _ | .byte _ | .tail _ => []
  | .hsqDec | .hsqSizes | .f7Dec | .f7Enc | .clear _ => []

end Sys2Proof
end

