-- ==== Sys2Proof/Machine/State.lean ====
section
/-! DEFINITION. The complete state of one engine (10_state.md R10), the model's own fields beside it, the reasons a step
can stop, and the state after reset (R28, R200). -/

namespace Sys2Proof.Machine

/-- PH, the phase (R15). -/
inductive Phase where
  | idle
  | hdr
  | hsq
  | f7d
  | f7e
  | done
  | fault
  deriving DecidableEq, Repr

/-- STATUS.STOPR, the reason the last operation stopped normally (R17). -/
inductive StopReason where
  /-- 0, NONE. -/
  | nothing
  /-- 1, EOF. -/
  | eof
  /-- 2, LITFULL. -/
  | litFull
  /-- 3, ENDIN. -/
  | endIn
  deriving DecidableEq, Repr

/-- CAUSE, the fault that ended the last operation (R20, R180). -/
inductive Cause where
  /-- 0, none. -/
  | noFault
  /-- 1, FormatError. -/
  | formatError
  /-- 2, TruncatedStream. -/
  | truncatedStream
  /-- 3, SizeLimitExceeded. -/
  | sizeLimitExceeded
  /-- 4, InvalidBackReference. -/
  | invalidBackReference
  deriving DecidableEq, Repr

/-- One move of the world outside the engine (R24, R200), taken between two engine steps. -/
inductive Input where
  /-- No move: the engine takes its step. -/
  | pass
  /-- The host writes a value to the register at an offset. -/
  | writeReg (offset : Nat) (v : Word)
  /-- The host reads the register at an offset. -/
  | readReg (offset : Nat)
  /-- The host writes a byte of IN. -/
  | writeIn (index : Nat) (b : Byte)
  /-- The host reads a byte of IN. -/
  | readIn (index : Nat)
  /-- The host writes a byte of OUT, which is ignored in every state. -/
  | writeOut (index : Nat) (b : Byte)
  /-- The host reads a byte of OUT. -/
  | readOut (index : Nat)
  /-- The reset input `rst` (R200). -/
  | reset
  deriving DecidableEq, Repr

/-- A byte memory: index and byte, indices strictly rising. An index that is not listed holds no byte the model knows. -/
abbrev Mem := List Host.Cell

/-- The state. The first group is R10's list; `params` is configuration (R27); the last group is the model's own. -/
structure State where
  /-- Q, the bit queue (R11). -/
  q : Half
  /-- CUR, the cursor (R12). -/
  cur : Nat
  /-- OLEN, the output length (R13). -/
  olen : Nat
  /-- DSIZE, the declared decompressed size (R14). -/
  dsize : Half
  /-- CSIZE, the declared compressed size (R14). -/
  csize : Half
  /-- CSUM, the header checksum (R14). -/
  csum : Byte
  /-- PH, the phase (R15). -/
  ph : Phase
  /-- OPL, the operation latched at START (R15). -/
  opl : OpCode
  /-- CTRL.OP (R16). -/
  ctrlOp : OpCode
  /-- STATUS.STOPR (R17). -/
  stopr : StopReason
  /-- STATUS.SIGOK (R17). -/
  sigok : Bool
  /-- STATUS.OVR (R17). -/
  ovr : Bool
  /-- ILEN, the input length (R18). -/
  ilen : Nat
  /-- RLEN, the result length (R19). -/
  rlen : Nat
  /-- CAUSE (R20). -/
  cause : Cause
  /-- FADDR (R21). -/
  faddr : Nat
  /-- FINFO (R22). -/
  finfo : Nat
  /-- IN, the input memory (R25). -/
  inMem : Mem
  /-- OUT, the output memory (R26). -/
  outMem : Mem
  /-- IN_CAP and OUT_CAP (R6); no step changes them. -/
  params : Config.Params
  /-- Model's own: the outside world's moves still to come, the next one first. -/
  inputs : List Input
  /-- Model's own: what the last host read returned. -/
  rdata : Word
  /-- Model's own: the counter that makes each free value fresh. -/
  draws : Nat
  /-- Model's own: which unspecified contents the unlisted bytes of IN have. -/
  inGen : Nat
  /-- Model's own: which unspecified contents the unlisted bytes of OUT have. -/
  outGen : Nat
  deriving DecidableEq, Repr

/-- Why the model itself stops. A fault of the engine (R180) is a phase, not one of these. -/
inductive Fault where
  /-- Raised by a host access to a register offset that is none of the 13 of 10_state.md section 4. Safe: the model
  stops where a bus might answer. -/
  | noSuchRegister
  /-- Raised by a host access to an index of IN at or beyond IN_CAP, or of OUT at or beyond OUT_CAP (R40). Safe: the
  model stops where a bus might answer. -/
  | noSuchAddress
  deriving DecidableEq, Repr

/-- Why an instruction has no meaning in the model. -/
inductive Refusal where
  /-- Raised by the dispatch for a row of the opcode table without a meaning; no arm of this model does. Safe. -/
  | notModelled (mnemonic : String)
  deriving DecidableEq, Repr

/-- The state after reset (R28, R200): every register 0, PH = IDLE, the contents of IN and OUT unspecified; the default
parameters; the model's own fields at the values of notes/assumptions 1, 2, 6 and 7 (DESIGN CHOICE). -/
def State.reset : State :=
  { q := 0
    cur := 0
    olen := 0
    dsize := 0
    csize := 0
    csum := 0
    ph := .idle
    opl := .hsqDec
    ctrlOp := .hsqDec
    stopr := .nothing
    sigok := false
    ovr := false
    ilen := 0
    rlen := 0
    cause := .noFault
    faddr := 0
    finfo := 0
    inMem := []
    outMem := []
    params := Config.default
    inputs := []
    rdata := 0
    draws := 1
    inGen := 0
    outGen := 0 }

end Sys2Proof.Machine
end

