-- ==== Sys2Proof/Machine/Ops.lean ====
section
/-! DEFINITION. The named operations over memory and registers, and the engine's one form of exception: `raise`
(60_exceptions.md R185), with the ways out of FAULT beside it (R188). -/

namespace Sys2Proof.Machine

/-! ## Byte memories -/

/-- The byte listed at an index, if any. -/
def Mem.get : Mem → Nat → Option Byte
  | [], _ => none
  | (k, v) :: m, a => if k = a then some v else Mem.get m a

/-- Write a byte, keeping the indices strictly rising. -/
def Mem.set : Mem → Nat → Byte → Mem
  | [], a, b => [(a, b)]
  | (k, v) :: m, a, b =>
    if a < k then (a, b) :: (k, v) :: m
    else if a = k then (a, b) :: m
    else (k, v) :: Mem.set m a b

/-- Write consecutive bytes from an index on. -/
def Mem.setList : Mem → Nat → List Byte → Mem
  | m, _, [] => m
  | m, a, b :: bs => Mem.setList (Mem.set m a b) (a + 1) bs

/-- Every index listed is at least the bound, and indices rise strictly. -/
def Mem.risesFrom : Nat → Mem → Bool
  | _, [] => true
  | lo, (k, _) :: m => decide (lo ≤ k) && Mem.risesFrom (k + 1) m

/-- The canonical form: indices strictly rising. No entry equals what an unlisted index reads as, since that is no
byte at all (notes/assumptions 2). -/
def Mem.wf (m : Mem) : Bool := Mem.risesFrom 0 m

/-- Every index listed is below a bound. -/
def Mem.below (n : Nat) (m : Mem) : Bool := m.all (fun c => decide (c.1 < n))

/-- `IN[i]`: the byte listed, or the unspecified contents nothing has overwritten (R25). -/
def State.inByte (s : State) (a : Nat) : Byte := (Mem.get s.inMem a).getD (Config.freeInByte s.inGen a)

/-- `OUT[i]`: the byte listed, or the unspecified contents nothing has overwritten (R26). -/
def State.outByte (s : State) (a : Nat) : Byte := (Mem.get s.outMem a).getD (Config.freeOutByte s.outGen a)

/-- `data` and `len(data)`: IN[0..ILEN-1] (R18). -/
def State.buffer (s : State) : Buffer := { len := s.ilen, byte := s.inByte }

/-- The position (CUR, Q) (R29). -/
def State.pos (s : State) : Pos := { cur := s.cur, q := s.q }

/-- The state with the position moved. -/
def State.withPos (s : State) (p : Pos) : State := { s with cur := p.cur, q := p.q }

/-- CUR <- CUR + k. -/
def State.advance (s : State) (k : Nat) : State := { s with cur := s.cur + k }

/-- STATE = BUSY: PH is HDR, HSQ, F7D or F7E (R17). -/
def State.busy (s : State) : Bool :=
  match s.ph with
  | .hdr | .hsq | .f7d | .f7e => true
  | .idle | .done | .fault => false

/-! ## raise -/

/-- `raise X(addr, info)` (R185). SIGOK, DSIZE, CSIZE, CSUM stay. OUT, CUR, OLEN and Q are unspecified afterwards (U2):
each takes a free value. -/
def State.raise (s : State) (x : Cause) (addr info : Nat) : State :=
  { s with
    cause := x
    faddr := addr
    finfo := info
    rlen := 0
    stopr := .nothing
    ovr := false
    ph := .fault
    cur := (Config.freeCur s.draws).toNat
    olen := (Config.freeOlen s.draws).toNat
    q := Config.freeQ s.draws
    outMem := []
    outGen := s.draws
    draws := s.draws + 1 }

/-- A computation that may raise. -/
inductive Raising where
  /-- No raise so far. -/
  | ok (s : State)
  /-- The state a raise left: nothing after it is executed. -/
  | raised (s : State)
  deriving DecidableEq, Repr

/-- The outcome of a rule: both endings are next states. -/
def Raising.outcome : Raising → Host.Outcome State Fault Refusal
  | .ok s => .next s
  | .raised s => .next s

/-- The next operation of the same rule, skipped after a raise. -/
def Raising.andThen (r : Raising) (f : State → State) : Raising :=
  match r with
  | .ok s => .ok (f s)
  | .raised s => .raised s

/-- A step that could not complete a read: TruncatedStream (R182). -/
def State.truncated (s : State) (t : Trunc) : State := s.raise .truncatedStream t.addr t.need

/-! ## Output -/

/-- `OUT[OLEN] <- v; OLEN <- OLEN + 1`, the write of R47. -/
def State.push (s : State) (v : Byte) : State :=
  { s with outMem := Mem.set s.outMem s.olen v, olen := s.olen + 1 }

/-- The write of R47 for each byte in order. -/
def State.pushList : State → List Byte → State
  | s, [] => s
  | s, v :: vs => (s.push v).pushList vs

/-- The capacity test of R47, R108, R122, R131, R132 for k bytes, made once before any of them is written. -/
def State.room (s : State) (k : Nat) : Raising :=
  if s.olen + k > s.params.outCap then .raised (s.raise .sizeLimitExceeded s.cur 2) else .ok s

/-- `Append(v)` (R47). -/
def State.append (s : State) (v : Byte) : Raising := (s.room 1).andThen (fun t => t.push v)

/-- Append a group of bytes under one capacity test (R122, R131, R132). -/
def State.appendList (s : State) (vs : List Byte) : Raising := (s.room vs.length).andThen (fun t => t.pushList vs)

/-- The loop of `Copy` (R108) at distance d: each byte read at the current OLEN - d, so it sees the bytes the same loop
has appended. -/
def State.copyLoop (d : Nat) : Nat → State → State
  | 0, s => s
  | n + 1, s => State.copyLoop d n (s.push (s.outByte (s.olen - d)))

/-- `Copy(-d, n)` (R108): the reference check, then the capacity check, then the loop. -/
def State.copy (s : State) (d n : Nat) : Raising :=
  if d > s.olen then .raised (s.raise .invalidBackReference s.cur d)
  else (s.room n).andThen (State.copyLoop d n)

/-! ## Launch, completion, clear -/

/-- The assignments START makes before it looks at ILEN (R140). -/
def State.wiped (s : State) (op : OpCode) : State :=
  { s with
    opl := op
    ctrlOp := op
    cur := 0
    q := 0
    olen := 0
    rlen := 0
    dsize := 0
    csize := 0
    csum := 0
    cause := .noFault
    faddr := 0
    finfo := 0
    stopr := .nothing
    sigok := false
    ovr := false }

/-- The phase START enters (R140). -/
def firstPhase : OpCode → Phase
  | .hsqDec | .hsqSizes => .hdr
  | .f7Dec => .f7d
  | .f7Enc => .f7e

/-- START (R140, R150): ignored while BUSY. -/
def State.start (s : State) (op : OpCode) : State :=
  if s.busy then s
  else if s.ilen > s.params.inCap then (s.wiped op).raise .sizeLimitExceeded 0 1
  else { s.wiped op with ph := firstPhase op }

/-- The store every CTRL write outside BUSY makes (R16). -/
def State.storeOp (s : State) (op : OpCode) : State := if s.busy then s else { s with ctrlOp := op }

/-- The CLEAR action (R145). -/
def State.clearResult (s : State) : State :=
  { s with
    ph := .idle
    stopr := .nothing
    sigok := false
    ovr := false
    rlen := 0
    cause := .noFault
    faddr := 0
    finfo := 0 }

/-- A CTRL write with CLEAR = 1, START = 0 (R145): accepted in DONE and FAULT; OP is stored in every state but BUSY.
This and START are the ways out of FAULT (R188). -/
def State.clear (s : State) (op : OpCode) : State :=
  if s.ph = .done ∨ s.ph = .fault then (s.storeOp op).clearResult else s.storeOp op

/-- The common part of the finishes that end with ENDIN (R125, R134, R142). -/
def State.finishWith (s : State) (rlen : Nat) : State := { s with rlen := rlen, stopr := .endIn, ph := .done }

/-- HSQ finish after `stop(reason)` (R109). -/
def State.hsqFinish (s : State) (reason : StopReason) : State :=
  if s.olen < s.dsize.toNat then s.raise .formatError s.cur 2
  else
    { s with
      rlen := s.dsize.toNat
      ovr := decide (s.olen > s.dsize.toNat)
      stopr := reason
      ph := .done }

/-! ## Reset and free reads -/

/-- `rst` (R200): the reset state; IN and OUT become unspecified anew. The parameters, the moves still to come and what
the host last read are no part of the engine and stay. -/
def State.hardReset (s : State) : State :=
  { State.reset with
    params := s.params
    inputs := s.inputs
    rdata := s.rdata
    draws := s.draws + 1
    inGen := s.draws
    outGen := s.draws }

/-- A host read that returns a specified value. -/
def State.deliver (s : State) (v : Word) : State := { s with rdata := v }

/-- A host read that returns an unspecified word: a fresh free value (U3). -/
def State.deliverFree (s : State) : State := { s with rdata := Config.freeRead s.draws, draws := s.draws + 1 }

/-- A host read that returns an unspecified byte: a fresh free value (U1, U3). -/
def State.deliverFreeByte (s : State) : State :=
  { s with rdata := ((Config.freeRead s.draws).setWidth 8).setWidth 32, draws := s.draws + 1 }

end Sys2Proof.Machine
end

