-- ==== Sys2Proof/Machine/F7Decode.lean ====
section
/-! DEFINITION. The F7 decoder elements (42_f7_decode.md R121 to R124), on the state at whose CUR the element starts. -/

namespace Sys2Proof.Machine

/-- ESC (R121). -/
def execEsc (s : State) : Host.Outcome State Fault Refusal :=
  ((s.append Config.f7Ctl).andThen (fun t => t.advance 3)).outcome

/-- RUN (R122). -/
def execRun (nn vv : Byte) (s : State) : Host.Outcome State Fault Refusal :=
  ((s.appendList (List.replicate nn.toNat vv)).andThen (fun t => t.advance 3)).outcome

/-- BYTE (R123). -/
def execByte (b : Byte) (s : State) : Host.Outcome State Fault Refusal :=
  ((s.append b).andThen (fun t => t.advance 1)).outcome

/-- TAIL (R124). -/
def execTail (b : Byte) (s : State) : Host.Outcome State Fault Refusal :=
  ((s.append b).andThen (fun t => t.advance 1)).outcome

end Sys2Proof.Machine
end

