-- ==== Sys2Proof/Machine/F7Encode.lean ====
section
/-! DEFINITION. The F7 encoder elements (43_f7_encode.md R131 to R133), on the state at whose CUR the element starts. -/

namespace Sys2Proof.Machine

/-- ERUN (R131). -/
def execErun (r v : Byte) (s : State) : Host.Outcome State Fault Refusal :=
  ((s.appendList [Config.f7Ctl, r, v]).andThen (fun t => t.advance r.toNat)).outcome

/-- EESC (R132). -/
def execEesc (s : State) : Host.Outcome State Fault Refusal :=
  ((s.appendList [Config.f7Ctl, 0x01, Config.f7Ctl]).andThen (fun t => t.advance 1)).outcome

/-- EBYTE (R133). -/
def execEbyte (v : Byte) (s : State) : Host.Outcome State Fault Refusal :=
  ((s.append v).andThen (fun t => t.advance 1)).outcome

end Sys2Proof.Machine
end

