-- ==== Sys2Proof/Machine/HostOps.lean ====
section
/-! DEFINITION. The host operations (44_engine_operations.md R141 to R145): what the CTRL write itself does. A launched
operation then goes on by the engine's own steps (R140, Machine/Fetch.lean). -/

namespace Sys2Proof.Machine

/-- HSQ_DEC (R141): START with OP = 0. -/
def execHsqDec (s : State) : Host.Outcome State Fault Refusal := .next (s.start .hsqDec)

/-- HSQ_SIZES (R142): START with OP = 1. -/
def execHsqSizes (s : State) : Host.Outcome State Fault Refusal := .next (s.start .hsqSizes)

/-- F7_DEC (R143): START with OP = 2. -/
def execF7Dec (s : State) : Host.Outcome State Fault Refusal := .next (s.start .f7Dec)

/-- F7_ENC (R144): START with OP = 3. -/
def execF7Enc (s : State) : Host.Outcome State Fault Refusal := .next (s.start .f7Enc)

/-- CLEAR (R145). -/
def execClear (op : OpCode) (s : State) : Host.Outcome State Fault Refusal := .next (s.clear op)

end Sys2Proof.Machine
end

