-- ==== Sys2Proof/Machine/Operands.lean ====
section
/-! DEFINITION. Operand assembly of the back-references (30_encoding.md R70): lengths, and distances d = -offset. Every
field is zero-extended and the arithmetic is on integers. -/

namespace Sys2Proof.Machine

/-- SHORT: bytes copied, count + 2 (2..5). -/
def shortLength (count : BitVec 2) : Nat := count.toNat + 2

/-- SHORT: distance 256 - b (1..256). -/
def shortDistance (b : Byte) : Nat := 256 - b.toNat

/-- LONG: bytes copied, count + 2 (3..9 when count is not 0). -/
def longLength (count : BitVec 3) : Nat := count.toNat + 2

/-- LONG and LONGX: distance 8192 - F (1..8192). -/
def longDistance (field : BitVec 13) : Nat := 8192 - field.toNat

/-- LONGX: bytes copied, e + 2 (3..257 when e is not 0). -/
def extraLength (x : Byte) : Nat := x.toNat + 2

end Sys2Proof.Machine
end

