-- ==== Sys2Proof/Machine/Hsq.lean ====
section
/-! DEFINITION. The HSQ commands (41_hsq_decode.md R102 to R107) on the state in which the command's control bits and
raw operand have been read. -/

namespace Sys2Proof.Machine

/-- LIT (R102). -/
def execLit (b : Byte) (s : State) : Host.Outcome State Fault Refusal := (s.append b).outcome

/-- LIT at full output (R103): `stop(LITFULL)`. -/
def execLitStop (s : State) : Host.Outcome State Fault Refusal := .next (s.hsqFinish .litFull)

/-- LONG (R104). -/
def execLong (field : BitVec 13) (count : BitVec 3) (s : State) : Host.Outcome State Fault Refusal :=
  (s.copy (longDistance field) (longLength count)).outcome

/-- LONGX (R105). -/
def execLongx (field : BitVec 13) (extra : Byte) (s : State) : Host.Outcome State Fault Refusal :=
  (s.copy (longDistance field) (extraLength extra)).outcome

/-- EOF (R106): `stop(EOF)`; the offset field is not examined. -/
def execEof (_ : BitVec 13) (s : State) : Host.Outcome State Fault Refusal := .next (s.hsqFinish .eof)

/-- SHORT (R107). -/
def execShort (count : BitVec 2) (b : Byte) (s : State) : Host.Outcome State Fault Refusal :=
  (s.copy (shortDistance b) (shortLength count)).outcome

end Sys2Proof.Machine
end

