-- ==== Sys2Proof/Machine/Dispatch.lean ====
section
/-! DEFINITION. One arm per row of spec/opcode_table.json. -/

namespace Sys2Proof.Machine

/-- The meaning of each instruction. -/
def exec (i : Instr) (s : State) : Host.Outcome State Fault Refusal :=
  match i with
  -- HSQ commands
  | .lit b => Sys2Proof.Machine.execLit b s
  | .litStop => Sys2Proof.Machine.execLitStop s
  | .long field count => Sys2Proof.Machine.execLong field count s
  | .longx field extra => Sys2Proof.Machine.execLongx field extra s
  | .eof field => Sys2Proof.Machine.execEof field s
  | .short count b => Sys2Proof.Machine.execShort count b s
  -- F7 decoder elements
  | .esc => Sys2Proof.Machine.execEsc s
  | .run nn vv => Sys2Proof.Machine.execRun nn vv s
  | .byte b => Sys2Proof.Machine.execByte b s
  | .tail b => Sys2Proof.Machine.execTail b s
  -- F7 encoder elements
  | .erun r v => Sys2Proof.Machine.execErun r v s
  | .eesc => Sys2Proof.Machine.execEesc s
  | .ebyte v => Sys2Proof.Machine.execEbyte v s
  -- host operations
  | .hsqDec => Sys2Proof.Machine.execHsqDec s
  | .hsqSizes => Sys2Proof.Machine.execHsqSizes s
  | .f7Dec => Sys2Proof.Machine.execF7Dec s
  | .f7Enc => Sys2Proof.Machine.execF7Enc s
  | .clear op => Sys2Proof.Machine.execClear op s

end Sys2Proof.Machine
end

