-- ==== Sys2Proof/Machine/Flags.lean ====
section
/-! DEFINITION. The register block the host sees (10_state.md section 4): offsets, the STATUS and CTRL words, which
reads are specified (R23, R24), and the header checksum flag. -/

namespace Sys2Proof.Machine

/-- The 13 registers of the block. -/
inductive Reg where
  | ctrl
  | status
  | ilen
  | rlen
  | cause
  | faddr
  | finfo
  | dsize
  | csize
  | csum
  | cur
  | olen
  | q
  deriving DecidableEq, Repr

/-- The register at an offset from REG_BASE; none where there is no register. -/
def regAt : Nat → Option Reg
  | 0x00 => some .ctrl
  | 0x04 => some .status
  | 0x08 => some .ilen
  | 0x0C => some .rlen
  | 0x10 => some .cause
  | 0x14 => some .faddr
  | 0x18 => some .finfo
  | 0x1C => some .dsize
  | 0x20 => some .csize
  | 0x24 => some .csum
  | 0x28 => some .cur
  | 0x2C => some .olen
  | 0x30 => some .q
  | _ => none

/-- STATUS.STATE of a phase (R17): 0 IDLE, 1 BUSY, 2 DONE, 3 FAULT. -/
def Phase.stateCode : Phase → BitVec 2
  | .idle => 0
  | .hdr | .hsq | .f7d | .f7e => 1
  | .done => 2
  | .fault => 3

/-- STATUS.STOPR (R17). -/
def StopReason.code : StopReason → BitVec 2
  | .nothing => 0
  | .eof => 1
  | .litFull => 2
  | .endIn => 3

/-- CAUSE[2:0] (R20). -/
def Cause.code : Cause → BitVec 3
  | .noFault => 0
  | .formatError => 1
  | .truncatedStream => 2
  | .sizeLimitExceeded => 3
  | .invalidBackReference => 4

/-- STATUS (R17): STATE in [1:0], STOPR in [3:2], SIGOK in bit 4, OVR in bit 5, the rest 0. -/
def State.status (s : State) : Word :=
  (BitVec.ofBool s.ovr ++ BitVec.ofBool s.sigok ++ s.stopr.code ++ s.ph.stateCode).setWidth 32

/-- CTRL as it reads (R16): OP in [1:0]; START and CLEAR always read 0. -/
def State.ctrl (s : State) : Word := s.ctrlOp.bits.setWidth 32

/-- The value a register holds, as a 32-bit word. -/
def State.regValue (s : State) : Reg → Word
  | .ctrl => s.ctrl
  | .status => s.status
  | .ilen => BitVec.ofNat 32 s.ilen
  | .rlen => BitVec.ofNat 32 s.rlen
  | .cause => s.cause.code.setWidth 32
  | .faddr => BitVec.ofNat 32 s.faddr
  | .finfo => BitVec.ofNat 32 s.finfo
  | .dsize => s.dsize.setWidth 32
  | .csize => s.csize.setWidth 32
  | .csum => s.csum.setWidth 32
  | .cur => BitVec.ofNat 32 s.cur
  | .olen => BitVec.ofNat 32 s.olen
  | .q => s.q.setWidth 32

/-- Whether a host read of a register returns its value (R23, R24): STATUS always; nothing else while BUSY; CUR, OLEN and
Q not in FAULT. -/
def State.readable (s : State) : Reg → Bool
  | .status => true
  | .cur | .olen | .q => !s.busy && s.ph != .fault
  | .ctrl | .ilen | .rlen | .cause | .faddr | .finfo | .dsize | .csize | .csum => !s.busy

/-- CSUM of a header (R62): the sum of its six bytes modulo 256. -/
def headerSum (d : Buffer) : Byte := d.byte 0 + d.byte 1 + d.byte 2 + d.byte 3 + d.byte 4 + d.byte 5

/-- SIGOK (R62, R100). -/
def signatureOk (csum : Byte) : Bool := csum == Config.hsqSig

end Sys2Proof.Machine
end

