-- ==== Sys2Proof/Machine/Fetch.lean ====
section
/-! DEFINITION. What the next step is: the outside world's move if one is pending, else the engine's step as PH directs
(10_state.md R15). Either is an instruction to run or a move of the machine's own that no row of the opcode table names:
the header parse, a finish, a register or memory access, reset. -/

namespace Sys2Proof.Machine

/-- What a step does. -/
inductive Action where
  /-- Run an instruction on a state. -/
  | run (i : Instr) (s : State)
  /-- The machine's own move leads to a state. -/
  | moved (s : State)
  /-- A host access to a place that does not exist. -/
  | stop (f : Fault)
  deriving DecidableEq, Repr

/-! ## The engine's turn -/

/-- The HSQ_SIZES finish (R142). -/
def State.sizesFinish (s : State) : State := s.finishWith 0

/-- The assignments of the header parse (R100). -/
def State.parsed (s : State) : State :=
  { s with
    dsize := s.buffer.half 0
    csize := s.buffer.half 3
    csum := headerSum s.buffer
    sigok := signatureOk (headerSum s.buffer)
    cur := Config.hdrLen
    q := 0 }

/-- The HDR step (R100). -/
def State.hdrStep (s : State) : State :=
  if s.ilen < Config.hdrLen then s.raise .formatError 0 1
  else if s.opl = .hsqSizes then s.parsed.sizesFinish
  else { s.parsed with ph := .hsq }

/-- OLEN >= DSIZE, the stop test of R103. -/
def State.full (s : State) : Bool := decide (s.olen ≥ s.dsize.toNat)

/-- An HSQ step (R101): one command read at (CUR, Q), or TruncatedStream. -/
def fetchHsq (s : State) : Action :=
  match decodeHsq s.buffer s.full s.pos with
  | .ok (i, p) => .run i (s.withPos p)
  | .error t => .moved (s.truncated t)

/-- An F7D step (R120, R125). -/
def fetchF7d (s : State) : Action :=
  match decodeF7 s.buffer s.cur with
  | some i => .run i s
  | none => .moved (s.finishWith s.olen)

/-- An F7E step (R130, R134). -/
def fetchF7e (s : State) : Action :=
  match selectF7 s.buffer s.cur with
  | some i => .run i s
  | none => .moved (s.finishWith s.olen)

/-- The engine's step (R15): none is taken in IDLE, DONE and FAULT, where the engine waits for the host. -/
def engineTurn (s : State) : Action :=
  match s.ph with
  | .idle | .done | .fault => .moved s
  | .hdr => .moved s.hdrStep
  | .hsq => fetchHsq s
  | .f7d => fetchF7d s
  | .f7e => fetchF7e s

/-! ## The host's turn -/

/-- A host write to a register (R16, R18, R24): ignored while BUSY, and always by the read-only registers. The CTRL
write is the host's one instruction; it needs no BUSY test here, since each instruction makes it. -/
def hostWrite (s : State) (r : Reg) (v : Word) : Action :=
  match r with
  | .ctrl =>
    match decodeCtrl v with
    | some i => .run i s
    | none => .moved (s.storeOp (ctrlOpOf v))
  | .ilen => .moved (if s.busy then s else { s with ilen := v.toNat })
  | .status | .rlen | .cause | .faddr | .finfo | .dsize | .csize | .csum | .cur | .olen | .q => .moved s

/-- A host read of a register (R23, R24). -/
def hostRead (s : State) (r : Reg) : State := if s.readable r then s.deliver (s.regValue r) else s.deliverFree

/-- A host write of IN (R24, R25): ignored while BUSY. -/
def hostWriteIn (s : State) (a : Nat) (b : Byte) : State :=
  if s.busy then s else { s with inMem := Mem.set s.inMem a b }

/-- A host read of IN (R24, R25). -/
def hostReadIn (s : State) (a : Nat) : State :=
  if s.busy then s.deliverFreeByte else s.deliver ((s.inByte a).setWidth 32)

/-- A host read of OUT (R24, R26, R205): specified in DONE below RLEN only. -/
def hostReadOut (s : State) (a : Nat) : State :=
  if s.ph = .done ∧ a < s.rlen then s.deliver ((s.outByte a).setWidth 32) else s.deliverFreeByte

/-- An access to the register at an offset, if there is one. -/
def atReg (offset : Nat) (f : Reg → Action) : Action :=
  match regAt offset with
  | some r => f r
  | none => .stop .noSuchRegister

/-- An access to an index, if the memory has it (R40). -/
def atIndex (index cap : Nat) (a : Action) : Action := if index < cap then a else .stop .noSuchAddress

/-- A move of the outside world. -/
def hostTurn (s : State) : Input → Action
  | .pass => engineTurn s
  | .writeReg offset v => atReg offset (fun r => hostWrite s r v)
  | .readReg offset => atReg offset (fun r => .moved (hostRead s r))
  | .writeIn a b => atIndex a s.params.inCap (.moved (hostWriteIn s a b))
  | .readIn a => atIndex a s.params.inCap (.moved (hostReadIn s a))
  | .writeOut a _ => atIndex a s.params.outCap (.moved s)
  | .readOut a => atIndex a s.params.outCap (.moved (hostReadOut s a))
  | .reset => .moved s.hardReset

/-- What the next step is. With no move pending the engine steps. -/
def fetch (s : State) : Action :=
  match s.inputs with
  | [] => engineTurn s
  | e :: rest => hostTurn { s with inputs := rest } e

/-! ## Placing an instruction -/

/-- An HSQ command with control prefix P (bits 7..0 of w) and operand bytes 0, placed as the first command of a body: a
fresh control word at IN[6..7]. A literal prefix is LIT, so it needs OLEN < DSIZE. -/
def State.placeHsq (s : State) (w : Nat) : State :=
  { s with
    inputs := .pass :: s.inputs
    ph := .hsq
    opl := .hsqDec
    cur := 6
    q := 0
    ilen := 11
    inMem := Mem.setList s.inMem 6 [byteAt w 0, 0, 0, 0, 0]
    olen := if w % 2 = 1 ∧ s.olen ≥ s.dsize.toNat then 0 else s.olen
    dsize := if w % 2 = 1 ∧ s.olen ≥ s.dsize.toNat then 1 else s.dsize }

/-- A CTRL write of a 16-bit value, placed as the host's next move. -/
def State.placeCtrl (s : State) (w : Nat) : State :=
  { s with inputs := .writeReg 0x00 (BitVec.ofNat 32 (w % 2 ^ 16)) :: s.inputs }

/-- An F7 triple T, placed as the whole F7 stream. -/
def State.placeF7 (s : State) (w : Nat) : State :=
  { s with
    inputs := .pass :: s.inputs
    ph := .f7d
    opl := .f7Dec
    cur := 0
    ilen := 3
    inMem := Mem.setList s.inMem 0 [byteAt w 2, byteAt w 1, byteAt w 0] }

/-- A table word placed where the next step fetches, by its space as `decodeTableWord` tells them apart. -/
def State.place (s : State) (nbits w : Nat) : State :=
  if nbits = 0 then s
  else if nbits ≤ 8 then s.placeHsq w
  else if nbits ≤ 16 then s.placeCtrl w
  else if nbits ≤ 24 then s.placeF7 w
  else s

end Sys2Proof.Machine
end

