-- ==== Sys2Proof/Safety.lean ====
section
/-! DEFINITION. The terms claims are stated in: the invariant of the machine, the result of an operation
(44_engine_operations.md R146), the two F7 codecs and the HSQ command list as functions on byte lists (R148), and what
two runs may be compared on (R5, R148). -/

namespace Sys2Proof.Safety

open Sys2Proof.Machine

/-! ## The invariant -/

/-- PH and OPL agree (R15, R140). -/
def phaseFits (ph : Phase) (opl : OpCode) : Bool :=
  match ph, opl with
  | .hdr, .hsqDec | .hdr, .hsqSizes | .hsq, .hsqDec | .f7d, .f7Dec | .f7e, .f7Enc => true
  | .idle, _ | .done, _ | .fault, _ => true
  | .hdr, .f7Dec | .hdr, .f7Enc => false
  | .hsq, .hsqSizes | .hsq, .f7Dec | .hsq, .f7Enc => false
  | .f7d, .hsqDec | .f7d, .hsqSizes | .f7d, .f7Enc => false
  | .f7e, .hsqDec | .f7e, .hsqSizes | .f7e, .f7Dec => false

/-- What every state between two steps satisfies. -/
structure EngineInv (s : State) : Prop where
  /-- R6: the parameters are legal. -/
  legal : s.params.legal
  /-- IN is in canonical form and within its capacity. -/
  inCanonical : Mem.wf s.inMem = true
  inWithin : Mem.below s.params.inCap s.inMem = true
  /-- OUT is in canonical form and within its capacity. -/
  outCanonical : Mem.wf s.outMem = true
  outWithin : Mem.below s.params.outCap s.outMem = true
  /-- R13: the 32-bit registers hold 32-bit values. -/
  cur32 : s.cur < 2 ^ 32
  olen32 : s.olen < 2 ^ 32
  ilen32 : s.ilen < 2 ^ 32
  rlen32 : s.rlen < 2 ^ 32
  faddr32 : s.faddr < 2 ^ 32
  finfo32 : s.finfo < 2 ^ 32
  /-- R12, R13, R150: a running operation is within its input and its output. -/
  inputFits : s.busy = true → s.ilen ≤ s.params.inCap
  cursorFits : s.busy = true → s.cur ≤ s.ilen
  outputFits : s.busy = true ∨ s.ph = .done → s.olen ≤ s.params.outCap
  /-- R26: the operation has written every byte of OUT below OLEN. -/
  written : s.busy = true ∨ s.ph = .done → ∀ a < s.olen, (Mem.get s.outMem a).isSome = true
  /-- R15: phase and latched operation agree. -/
  phase : phaseFits s.ph s.opl = true
  /-- R140, R100: the position the loop starts from. -/
  hdrStart : s.ph = .hdr → s.cur = 0 ∧ s.olen = 0
  hsqStart : s.ph = .hsq → 6 ≤ s.cur
  /-- R11: Q is used by the HSQ loop only. -/
  queueEmpty : s.ph = .hdr ∨ s.ph = .f7d ∨ s.ph = .f7e → s.q = 0
  /-- R14: the F7 operations leave the header latches 0. -/
  latchesEmpty : s.ph = .f7d ∨ s.ph = .f7e → s.dsize = 0 ∧ s.csize = 0 ∧ s.csum = 0
  /-- R20 to R22: the fault record is there in FAULT and only there. -/
  causeFault : s.cause ≠ .noFault ↔ s.ph = .fault
  recordEmpty : s.ph ≠ .fault → s.faddr = 0 ∧ s.finfo = 0
  /-- R17, R19: RLEN, STOPR and OVR speak of a completed operation. -/
  resultEmpty : s.ph ≠ .done → s.rlen = 0 ∧ s.stopr = .nothing ∧ s.ovr = false
  resultThere : s.ph = .done → s.rlen ≤ s.olen ∧ s.stopr ≠ .nothing
  /-- R109: HSQ_DEC returns exactly DSIZE bytes. -/
  exactLength : s.ph = .done → s.opl = .hsqDec → s.rlen = s.dsize.toNat ∧ s.ovr = decide (s.olen > s.dsize.toNat)
  /-- R17: SIGOK tells whether the header parse found the signature. -/
  signature : s.ph ≠ .idle → s.sigok = signatureOk s.csum

/-- R207: how far the output can have grown from the input consumed. -/
def Growth (s : State) : Prop := s.busy = true → s.olen ≤ 257 * s.cur

/-! ## Results -/

/-- OUT[0..n-1]. -/
def outBytes (s : State) : Nat → List Byte
  | 0 => []
  | n + 1 => outBytes s n ++ [s.outByte n]

/-- The result of an operation: OUT[0..RLEN-1] in DONE (R146), and nothing else (U1). -/
def result (s : State) : Option (List Byte) := if s.ph = .done then some (outBytes s s.rlen) else none

/-- The input buffer is this list: ILEN and IN[0..ILEN-1] (R18). -/
def holds (s : State) (data : List Byte) : Prop :=
  s.ilen = data.length ∧ ∀ i < data.length, s.inByte i = data.getD i 0

/-- The engine can take a START that is not turned away (R140, R150), and the host makes no move meanwhile. -/
def ready (s : State) : Prop := s.inputs = [] ∧ s.busy = false ∧ s.ilen ≤ s.params.inCap

/-- `n` steps of the machine. -/
def runs (n : Nat) (s : State) : Host.Outcome State Fault Refusal := Sys2Proof.core.run n s

/-- What the spec fixes of a state while an operation runs and when it has ended (R146, R148, R192): everything the host
can read with a specified value (R23, R24), but for IN. -/
structure Observed where
  ph : Phase
  ctrl : Word
  status : Word
  ilen : Nat
  rlen : Nat
  cause : Cause
  faddr : Nat
  finfo : Nat
  dsize : Half
  csize : Half
  csum : Byte
  /-- OUT[0..RLEN-1] in DONE. -/
  result : Option (List Byte)
  /-- CUR, OLEN and Q in DONE, where R23 fixes them; they are free after a fault (U2). -/
  position : Option (Nat × Nat × Half)
  deriving DecidableEq, Repr

/-- What is observed of a state. -/
def observed (s : State) : Observed :=
  { ph := s.ph
    ctrl := s.ctrl
    status := s.status
    ilen := s.ilen
    rlen := s.rlen
    cause := s.cause
    faddr := s.faddr
    finfo := s.finfo
    dsize := s.dsize
    csize := s.csize
    csum := s.csum
    result := result s
    position := if s.ph = .done then some (s.cur, s.olen, s.q) else none }

/-- Two states with the same launch arguments (R148): ILEN, IN[0..ILEN-1] and the parameters. -/
def sameArguments (s t : State) : Prop :=
  s.params = t.params ∧ s.ilen = t.ilen ∧ ∀ i < s.ilen, s.inByte i = t.inByte i

/-- The most steps an operation takes after START (R207), for an input of this length. -/
def stepBound (op : OpCode) (ilen : Nat) : Nat :=
  match op with
  | .hsqDec => 1 + (ilen - 5)
  | .hsqSizes => 1
  | .f7Dec | .f7Enc => ilen + 1

/-! ## What an instruction does to the output and the cursor -/

/-- The distance a back-reference reaches (R70); 0 for any other instruction. -/
def distance : Instr → Nat
  | .long field _ | .longx field _ => longDistance field
  | .short _ b => shortDistance b
  | .lit _ | .litStop | .eof _ | .esc | .run _ _ | .byte _ | .tail _ => 0
  | .erun _ _ | .eesc | .ebyte _ | .hsqDec | .hsqSizes | .f7Dec | .f7Enc | .clear _ => 0

/-- The bytes an instruction appends to OUT; 0 for one that appends none. -/
def produced : Instr → Nat
  | .lit _ | .esc | .byte _ | .tail _ | .ebyte _ => 1
  | .long _ count => longLength count
  | .longx _ extra => extraLength extra
  | .short count _ => shortLength count
  | .run nn _ => nn.toNat
  | .erun _ _ | .eesc => 3
  | .litStop | .eof _ | .hsqDec | .hsqSizes | .f7Dec | .f7Enc | .clear _ => 0

/-- How far the rule of an F7 element moves CUR; an HSQ command's bytes are consumed as it is read. -/
def consumed : Instr → Nat
  | .esc | .run _ _ => 3
  | .byte _ | .tail _ | .eesc | .ebyte _ => 1
  | .erun r _ => r.toNat
  | .lit _ | .litStop | .long _ _ | .longx _ _ | .eof _ | .short _ _ => 0
  | .hsqDec | .hsqSizes | .f7Dec | .f7Enc | .clear _ => 0

/-- The instructions whose effect is to append to OUT. -/
def appends : Instr → Bool
  | .lit _ | .long _ _ | .longx _ _ | .short _ _ | .esc | .run _ _ | .byte _ | .tail _ => true
  | .erun _ _ | .eesc | .ebyte _ => true
  | .litStop | .eof _ | .hsqDec | .hsqSizes | .f7Dec | .f7Enc | .clear _ => false

/-- The HSQ commands the decoder can meet, given whether OLEN >= DSIZE (R102, R103). -/
def hsqMeets (full : Bool) : Instr → Bool
  | .lit _ => !full
  | .litStop => full
  | .long _ _ | .longx _ _ | .eof _ | .short _ _ => true
  | .esc | .run _ _ | .byte _ | .tail _ | .erun _ _ | .eesc | .ebyte _ => false
  | .hsqDec | .hsqSizes | .f7Dec | .f7Enc | .clear _ => false

/-- The state t is s after a copy of n bytes at distance d (R108): n bytes appended at OLEN, the byte at each place
equal to the byte d places before it as it stands after the copy; every other byte and register as before. -/
def copied (s : State) (d n : Nat) (t : State) : Prop :=
  t = { s with outMem := t.outMem, olen := s.olen + n } ∧
  (∀ k < n, t.outByte (s.olen + k) = t.outByte (s.olen + k - d)) ∧
  (∀ a, a < s.olen ∨ s.olen + n ≤ a → t.outByte a = s.outByte a)

/-- The state t is s after the bytes vs were appended at OLEN and CUR moved on by k (R47): every other byte and register
as before. -/
def appended (s : State) (vs : List Byte) (k : Nat) (t : State) : Prop :=
  t = { s with outMem := t.outMem, olen := s.olen + vs.length, cur := s.cur + k } ∧
  (∀ i < vs.length, t.outByte (s.olen + i) = vs.getD i 0) ∧
  (∀ a, a < s.olen ∨ s.olen + vs.length ≤ a → t.outByte a = s.outByte a)

/-- The FAULT state `raise X(addr, info)` leaves (R185), OUT, CUR, OLEN and Q free. -/
def raised (s : State) (x : Cause) (addr info : Nat) (t : State) : Prop :=
  t = { s with
        cause := x, faddr := addr, finfo := info, rlen := 0, stopr := .nothing, ovr := false, ph := .fault,
        cur := t.cur, olen := t.olen, q := t.q, outMem := t.outMem, outGen := t.outGen, draws := t.draws }

/-- Every register at its reset value (R28): 0, NONE, and PH = IDLE. -/
def zeroed (s : State) : Prop :=
  s.q = 0 ∧ s.cur = 0 ∧ s.olen = 0 ∧ s.dsize = 0 ∧ s.csize = 0 ∧ s.csum = 0 ∧ s.ph = .idle ∧ s.opl = .hsqDec ∧
  s.ctrlOp = .hsqDec ∧ s.status = 0 ∧ s.stopr = .nothing ∧ s.sigok = false ∧ s.ovr = false ∧ s.ilen = 0 ∧
  s.rlen = 0 ∧ s.cause = .noFault ∧ s.faddr = 0 ∧ s.finfo = 0

/-- It is the engine's turn: the outside world makes no move. -/
def engineMoves (s : State) : Prop := s.inputs = [] ∨ ∃ rest, s.inputs = .pass :: rest

/-- A host write to a place that exists (R24): a register, a byte of IN or a byte of OUT. -/
def hostWrites (s : State) (e : Input) : Prop :=
  (∃ offset r v, e = .writeReg offset v ∧ regAt offset = some r) ∨
  (∃ a b, e = .writeIn a b ∧ a < s.params.inCap) ∨
  (∃ a b, e = .writeOut a b ∧ a < s.params.outCap)

/-- STATE is not BUSY (R17): PH is IDLE, DONE or FAULT. -/
def settled (s : State) : Prop := s.ph = .idle ∨ s.ph = .done ∨ s.ph = .fault

/-- A host read of the register at an offset returns this number and changes nothing else. -/
def reads (s : State) (offset n : Nat) : Prop :=
  ∀ rest, s.inputs = .readReg offset :: rest →
    ∃ t, step s = .next t ∧ t = { s with inputs := rest, rdata := t.rdata } ∧ t.rdata.toNat = n

/-- A host write to a place that is read-only in every state (R24): a register other than CTRL and ILEN, by its offset in
the map of 10_state.md section 4, or a byte of OUT. -/
def writesReadOnly (s : State) (e : Input) : Prop :=
  (∃ offset v, e = .writeReg offset v ∧
    offset ∈ [0x04, 0x0C, 0x10, 0x14, 0x18, 0x1C, 0x20, 0x24, 0x28, 0x2C, 0x30]) ∨
  (∃ a b, e = .writeOut a b ∧ a < s.params.outCap)

/-! ## The codecs as functions on byte lists -/

/-- `f7_decompress` (R120 to R125). -/
def f7Decode : List Byte → List Byte
  | a :: n :: v :: rest =>
    if a = Config.f7Ctl ∧ n = 0x01 ∧ v = Config.f7Ctl then Config.f7Ctl :: f7Decode rest
    else if a = Config.f7Ctl ∧ n.toNat > Config.f7DecMin then List.replicate n.toNat v ++ f7Decode rest
    else a :: f7Decode (n :: v :: rest)
  | l => l

/-- How many bytes at the head equal v, at most k. -/
def leading (v : Byte) : Nat → List Byte → Nat
  | 0, _ => 0
  | _ + 1, [] => 0
  | k + 1, a :: l => if a = v then leading v k l + 1 else 0

/-- `f7_compress` (R130 to R134), with the steps it may still take. -/
def f7EncodeFrom : Nat → List Byte → List Byte
  | 0, _ => []
  | _ + 1, [] => []
  | k + 1, v :: l =>
    let r := leading v Config.f7RunMax (v :: l)
    if r > Config.f7EncMin then Config.f7Ctl :: BitVec.ofNat 8 r :: v :: f7EncodeFrom k ((v :: l).drop r)
    else if v = Config.f7Ctl then Config.f7Ctl :: 0x01 :: Config.f7Ctl :: f7EncodeFrom k l
    else v :: f7EncodeFrom k l

/-- `f7_compress`: every step consumes a byte, so the length bounds the steps. -/
def f7Encode (l : List Byte) : List Byte := f7EncodeFrom l.length l

/-- One byte at a time at distance d onto a list (R108). -/
def copyOnto (d : Nat) : Nat → List Byte → List Byte
  | 0, out => out
  | n + 1, out => copyOnto d n (out ++ [out.getD (out.length - d) 0])

/-- What one HSQ command makes of the output so far; none for a reference that points outside it, and for anything that
is no LIT, LONG, LONGX or SHORT. -/
def produceOne (out : List Byte) : Instr → Option (List Byte)
  | .lit b => some (out ++ [b])
  | .long field count =>
    if longDistance field ≤ out.length then some (copyOnto (longDistance field) (longLength count) out) else none
  | .longx field x =>
    if longDistance field ≤ out.length then some (copyOnto (longDistance field) (extraLength x) out) else none
  | .short count b =>
    if shortDistance b ≤ out.length then some (copyOnto (shortDistance b) (shortLength count) out) else none
  | .litStop | .eof _ | .esc | .run _ _ | .byte _ | .tail _ => none
  | .erun _ _ | .eesc | .ebyte _ | .hsqDec | .hsqSizes | .f7Dec | .f7Enc | .clear _ => none

/-- What a command list produces (R167), in which every reference points inside the output so far. -/
def produce : List Byte → List Instr → Option (List Byte)
  | out, [] => some out
  | out, i :: l =>
    match produceOne out i with
    | some out' => produce out' l
    | none => none

end Sys2Proof.Safety
end

