-- ==== Sys2Proof/Certificates/Slice0/Obligations.lean ====
section
/-! DEFINITION. The statements put to the provers. Each docstring names the rule of spec/ the statement formalises. -/

open Sys2Proof Sys2Proof.Machine Sys2Proof.Safety

/-! ## Reset and the invariant -/

/-- R200, R28: the reset input leaves every register 0 and PH = IDLE in any state, abandons what was running, and makes
IN and OUT unspecified (a free byte at every index); the reset state is the same, and the engine waits in it. -/
def Obligations.ResetClearsTheEngine : Prop :=
  (∀ s rest, s.inputs = .reset :: rest → ∃ t, step s = .next t ∧ zeroed t ∧ t.inputs = rest ∧
    ∀ a, t.inByte a = Config.freeInByte t.inGen a ∧ t.outByte a = Config.freeOutByte t.outGen a) ∧
  zeroed State.reset ∧
  (∀ a, State.reset.inByte a = Config.freeInByte State.reset.inGen a ∧
    State.reset.outByte a = Config.freeOutByte State.reset.outGen a) ∧
  step State.reset = .next State.reset

/-- The invariant holds at reset. It contains the values R28 gives and the default parameters of R6. -/
def Obligations.InvariantHoldsAtReset : Prop := EngineInv State.reset ∧ Growth State.reset

/-- Every step keeps the invariant: canonical memories within their capacities (R25, R26, R40), 32-bit registers (R13),
cursor and output within bounds (R12, R13), OUT written below OLEN (R26), PH and OPL agreeing (R15), the fault record in
FAULT only (R20 to R22), RLEN, STOPR and OVR in DONE only (R17, R19), exactly DSIZE bytes from HSQ_DEC (R109). -/
def Obligations.StepKeepsTheInvariant : Prop := ∀ s t, EngineInv s → step s = .next t → EngineInv t

/-- The spec's own inference in R207: while an operation runs, OLEN <= 257 * CUR. -/
def Obligations.StepKeepsOutputGrowthBounded : Prop := ∀ s t, EngineInv s → Growth s → step s = .next t → Growth t

/-- The spec's own inference in R183 and R6: with OUT_CAP >= 257 * IN_CAP the only SizeLimitExceeded is the one at
START (FADDR = 0, FINFO = 1). -/
def Obligations.DefaultOutputCapacityNeverExceeded : Prop :=
  ∀ s t, EngineInv s → Growth s → 257 * s.params.inCap ≤ s.params.outCap → step s = .next t →
    s.ph ≠ .fault → t.ph = .fault → t.cause = .sizeLimitExceeded → t.faddr = 0 ∧ t.finfo = 1

/-- R15: the transitions of PH, event by event. On the engine's turn: none in IDLE, DONE and FAULT; HDR by the header's
length and OPL; in HSQ to FAULT on a command cut short, for a stop to DONE or, with OLEN < DSIZE, FAULT, for any other
command to FAULT when it raises and else to HSQ; in F7D and F7E to DONE at the end of the input, for an element to FAULT
when it raises and else to the same phase. On the host's: reset to IDLE; a CTRL write as START, CLEAR or neither, START
latching OPL; every other access leaves PH and OPL. -/
def Obligations.PhaseFollowsTheTransitionTable : Prop :=
  (∀ s, engineMoves s → ∃ t, step s = .next t ∧
    (settled s → t = { s with inputs := t.inputs }) ∧
    (s.ph = .hdr → t.ph = if s.ilen < 6 then .fault else if s.opl = .hsqSizes then .done else .hsq) ∧
    (s.ph = .hsq →
      match decodeHsq s.buffer s.full s.pos with
      | .error _ => t.ph = .fault
      | .ok (i, _) =>
        if appends i = true then
          t.ph = if s.olen < distance i ∨ s.params.outCap < s.olen + produced i then .fault else .hsq
        else if s.olen < s.dsize.toNat then t.ph = .fault
        else t.ph = .done ∧ t.stopr = if i = .litStop then .litFull else .eof) ∧
    (s.ph = .f7d →
      if s.ilen ≤ s.cur then t.ph = .done
      else ∃ i, decodeF7 s.buffer s.cur = some i ∧
        t.ph = if s.params.outCap < s.olen + produced i then .fault else .f7d) ∧
    (s.ph = .f7e →
      if s.ilen ≤ s.cur then t.ph = .done
      else ∃ i, selectF7 s.buffer s.cur = some i ∧
        t.ph = if s.params.outCap < s.olen + produced i then .fault else .f7e)) ∧
  (∀ s rest, s.inputs = .reset :: rest → ∃ t, step s = .next t ∧ t.ph = .idle ∧ t.opl = .hsqDec) ∧
  (∀ s (v : Word) rest, s.inputs = .writeReg 0x00 v :: rest → ∃ t, step s = .next t ∧
    (¬ settled s → t.ph = s.ph ∧ t.opl = s.opl) ∧
    (settled s → v.getLsbD 8 = true → t.opl.bits.toNat = v.toNat % 4 ∧
      t.ph = if s.params.inCap < s.ilen then .fault
        else if v.toNat % 4 ≤ 1 then .hdr else if v.toNat % 4 = 2 then .f7d else .f7e) ∧
    (settled s → v.getLsbD 8 = false → t.opl = s.opl ∧
      t.ph = if v.getLsbD 9 = true then .idle else s.ph)) ∧
  (∀ s t e rest, s.inputs = e :: rest → e ≠ .pass → e ≠ .reset → (∀ v, e ≠ .writeReg 0x00 v) → step s = .next t →
    t.ph = s.ph ∧ t.opl = s.opl)

/-! ## Fetching -/

/-- A step runs the decoded instruction. In phase HSQ the command read at (CUR, Q) runs on the state with CUR and Q past
its control bits and raw bytes (R101); in F7D and F7E the element at CUR runs on the state as it is, and moves CUR itself
(R120, R130); a pending CTRL write runs its host operation on the state with that write taken (R16). -/
def Obligations.StepRunsTheDecodedInstruction : Prop :=
  (∀ s i p, s.inputs = [] → s.ph = .hsq →
    decodeHsq s.buffer (decide (s.olen ≥ s.dsize.toNat)) { cur := s.cur, q := s.q } = .ok (i, p) →
    step s = exec i { s with cur := p.cur, q := p.q }) ∧
  (∀ s i, s.inputs = [] → s.ph = .f7d → decodeF7 s.buffer s.cur = some i → step s = exec i s) ∧
  (∀ s i, s.inputs = [] → s.ph = .f7e → selectF7 s.buffer s.cur = some i → step s = exec i s) ∧
  (∀ s v i rest, s.inputs = .writeReg 0x00 v :: rest → decodeCtrl v = some i →
    step s = exec i { s with inputs := rest })

/-- R182: GetBit (on a refill), ReadByte and ReadWord fail exactly when the read would pass ILEN, with the index and the
size of the read; a command cut short so ends the operation in TruncatedStream, even if OLEN has reached DSIZE. -/
def Obligations.TruncatedReadsRaise : Prop :=
  (∀ (d : Buffer) (p : Pos) e, getBit d p = .error e ↔ (p.q >>> 1 = 0 ∧ d.len < p.cur + 2 ∧ e = { addr := p.cur, need := 2 })) ∧
  (∀ (d : Buffer) (p : Pos) e, readByte d p = .error e ↔ (d.len < p.cur + 1 ∧ e = { addr := p.cur, need := 1 })) ∧
  (∀ (d : Buffer) (p : Pos) e, readWord d p = .error e ↔ (d.len < p.cur + 2 ∧ e = { addr := p.cur, need := 2 })) ∧
  (∀ s e, engineMoves s → s.ph = .hsq → decodeHsq s.buffer s.full s.pos = .error e →
    ∃ t, step s = .next t ∧ raised { s with inputs := t.inputs } .truncatedStream e.addr e.need t)

/-- R186: the one fault an HSQ command reports is the first met: reads, then the reference, then the capacity, then (for
EOF, which is never a reference) the early end. -/
def Obligations.CommandFaultsComeInOrder : Prop :=
  ∀ s, s.inputs = [] → s.ph = .hsq → ∃ t, step s = .next t ∧
    match decodeHsq s.buffer s.full s.pos with
    | .error e => raised s .truncatedStream e.addr e.need t
    | .ok (i, p) =>
      if s.olen < distance i then raised (s.withPos p) .invalidBackReference p.cur (distance i) t
      else if s.params.outCap < s.olen + produced i ∧ appends i = true then
        raised (s.withPos p) .sizeLimitExceeded p.cur 2 t
      else if appends i = false ∧ s.olen < s.dsize.toNat then raised (s.withPos p) .formatError p.cur 2 t
      else t.ph ≠ .fault

/-! ## The Bit Reader -/

/-- R90: a GetBit that finds its shifted queue not 0 returns the low bit and moves nothing but Q; one that finds it 0
refills: it returns w's low bit, the queue becomes 0x8000 | (w >> 1) and CUR moves by 2. -/
def Obligations.GetBitRefillArithmetic : Prop :=
  (∀ (d : Buffer) (p : Pos), p.q.toNat / 2 ≠ 0 →
    ∃ p', getBit d p = .ok (p.q.getLsbD 0, p') ∧ p'.cur = p.cur ∧ p'.q.toNat = p.q.toNat / 2) ∧
  (∀ (d : Buffer) (p : Pos), p.q.toNat / 2 = 0 → p.cur + 2 ≤ d.len →
    ∃ p', getBit d p = .ok (decide (((d.byte p.cur).toNat + 256 * (d.byte (p.cur + 1)).toNat) % 2 = 1), p') ∧
      p'.cur = p.cur + 2 ∧
      p'.q.toNat = 0x8000 + ((d.byte p.cur).toNat + 256 * (d.byte (p.cur + 1)).toNat) / 2) ∧
  (∀ (d : Buffer) (p : Pos), p.q.toNat / 2 = 0 → d.len < p.cur + 2 → getBit d p = .error { addr := p.cur, need := 2 })

/-- The spec's own inference R94: after a refill from w the queue is (0x8000 | (w >> 1)) >> k after k more bits; each
word delivers exactly its 16 bits, low bit first; after the 16th only the sentinel is left; the 17th comes from the next
word; the queue is never 0 after a bit; and CUR moves only in a call that refills. -/
def Obligations.RefillDeliversSixteenBits : Prop :=
  (∀ (d : Buffer) (p : Pos), p.q >>> 1 = 0 → p.cur + 2 ≤ d.len →
    (∀ k ≤ 15, getBits d (k + 1) p =
      .ok ((List.range (k + 1)).map (d.half p.cur).getLsbD,
        { cur := p.cur + 2, q := (0x8000 ||| (d.half p.cur >>> 1)) >>> k })) ∧
    (0x8000 ||| (d.half p.cur >>> 1)) >>> 15 = 1 ∧
    (p.cur + 4 ≤ d.len → getBits d 17 p =
      .ok ((List.range 16).map (d.half p.cur).getLsbD ++ [(d.half (p.cur + 2)).getLsbD 0],
        { cur := p.cur + 4, q := 0x8000 ||| (d.half (p.cur + 2) >>> 1) }))) ∧
  (∀ (d : Buffer) (p : Pos) b p', getBit d p = .ok (b, p') → p'.q ≠ 0 ∧ (p.q >>> 1 ≠ 0 → p'.cur = p.cur))

/-- R91, R92: raw reads at the cursor, the word little-endian; Q is not touched. -/
def Obligations.RawReadsAtTheCursor : Prop :=
  (∀ (d : Buffer) (p : Pos), p.cur + 1 ≤ d.len → readByte d p = .ok (d.byte p.cur, { cur := p.cur + 1, q := p.q })) ∧
  (∀ (d : Buffer) (p : Pos), d.len < p.cur + 1 → readByte d p = .error { addr := p.cur, need := 1 }) ∧
  (∀ (d : Buffer) (p : Pos), p.cur + 2 ≤ d.len → ∃ w, readWord d p = .ok (w, { cur := p.cur + 2, q := p.q }) ∧
    w.toNat = (d.byte p.cur).toNat + 256 * (d.byte (p.cur + 1)).toNat) ∧
  (∀ (d : Buffer) (p : Pos), d.len < p.cur + 2 → readWord d p = .error { addr := p.cur, need := 2 })

/-! ## Decoding and encoding -/

/-- Words written out by hand from the encodings of R65 to R69, R74, R76 and R16 decode to what they stand for. -/
def Obligations.HandWrittenWordsDecode : Prop :=
  decode (.hsq false) [0x01, 0x00, 0x41] = .ok (.lit 0x41) ∧
  decode (.hsq true) [0x01, 0x00] = .ok .litStop ∧
  decode (.hsq false) [0x02, 0x00, 0xEC, 0xFF] = .ok (.long 8189 4) ∧
  decode (.hsq false) [0x02, 0x00, 0xF8, 0xFF, 0xFF] = .ok (.longx 8191 0xFF) ∧
  decode (.hsq false) [0x02, 0x00, 0xF8, 0xFF, 0x00] = .ok (.eof 8191) ∧
  decode (.hsq false) [0x08, 0x00, 0xF2] = .ok (.short 1 0xF2) ∧
  decode .f7d [0xF7, 0x01, 0xF7] = .ok .esc ∧
  decode .f7d [0xF7, 0x04, 0xAA] = .ok (.run 4 0xAA) ∧
  decode .f7d [0xF7, 0x02, 0xAA] = .ok (.byte 0xF7) ∧
  decode .f7d [0xF7, 0x01] = .ok (.tail 0xF7) ∧
  decode .f7e [0xAA, 0xAA, 0xAA, 0xAA] = .ok (.erun 4 0xAA) ∧
  decode .f7e [0xF7, 0xF7] = .ok .eesc ∧
  decode .f7e [0xAA, 0xAA, 0xAA] = .ok (.ebyte 0xAA) ∧
  decode .ctrl [0x02, 0x03, 0x00, 0x00] = .ok .f7Dec ∧
  decode .ctrl [0x03, 0x02, 0x00, 0x00] = .ok (.clear .f7Enc) ∧
  decode .ctrl [0x03, 0x00, 0x00, 0x00] = .error .noOperation

/-- Decode and encode agree for every well-formed HSQ command with every operand, whatever follows it in the stream: from
an empty queue, decoding the command's encoding gives the command, and the cursor stands right after it. -/
def Obligations.HsqDecodeInvertsEncode : Prop :=
  ∀ (i : Instr) (full : Bool) (rest : List Byte), i.wf = true → hsqMeets full i = true →
    ∃ p, decodeHsq (Buffer.ofList (encode i ++ rest)) full { cur := 0, q := 0 } = .ok (i, p) ∧
      p.cur = (encode i).length

/-- R64 and R101 in full, at any position: the decoder answers a command exactly when the next control bits are that
command's bits and the bytes standing after them are its raw operand, and it consumes just these. -/
def Obligations.HsqDecoderReadsBitsThenOperand : Prop :=
  ∀ (d : Buffer) (full : Bool) (p p' : Pos) (i : Instr),
    decodeHsq d full p = .ok (i, p') ↔
      (i.wf = true ∧ hsqMeets full i = true ∧ ∃ p1, getBits d i.bits.length p = .ok (i.bits, p1) ∧
        (∀ k < i.raw.length, p1.cur + k < d.len ∧ d.byte (p1.cur + k) = i.raw.getD k 0) ∧
        p' = { cur := p1.cur + i.raw.length, q := p1.q })

/-- R64, R71: no control-bit pattern and no operand is illegal: with five bytes left some command is always decoded, and
it consumes at most those five. -/
def Obligations.EveryHsqPatternIsACommand : Prop :=
  ∀ (d : Buffer) (full : Bool) (p : Pos), p.cur + 5 ≤ d.len →
    ∃ i p', decodeHsq d full p = .ok (i, p') ∧ i.wf = true ∧ p.cur ≤ p'.cur ∧ p'.cur ≤ p.cur + 5

/-- R74: each F7 decoder element is read back from its bytes, a BYTE wherever its window is neither pattern, a TAIL
wherever fewer than 3 bytes remain. -/
def Obligations.F7DecodeInvertsEncode : Prop :=
  (∀ rest, decodeF7 (Buffer.ofList (encode .esc ++ rest)) 0 = some .esc) ∧
  (∀ nn vv rest, (Instr.run nn vv).wf = true →
    decodeF7 (Buffer.ofList (encode (.run nn vv) ++ rest)) 0 = some (.run nn vv)) ∧
  (∀ (b x y : Byte) rest, (b ≠ 0xF7 ∨ (x.toNat ≤ 2 ∧ ¬(x = 0x01 ∧ y = 0xF7))) →
    decodeF7 (Buffer.ofList (encode (.byte b) ++ x :: y :: rest)) 0 = some (.byte b)) ∧
  (∀ (b : Byte) rest, rest.length ≤ 1 →
    decodeF7 (Buffer.ofList (encode (.tail b) ++ rest)) 0 = some (.tail b))

/-- R130, R131 to R133: each F7 encoder element is selected on the data it stands for: a run of r equal bytes, r from 4
to 255, that ends there or has reached 255; a shorter run by its byte. -/
def Obligations.F7SelectionReadsTheRun : Prop :=
  (∀ r v rest, (Instr.erun r v).wf = true → (r = 255 ∨ rest.head? ≠ some v) →
    selectF7 (Buffer.ofList (List.replicate r.toNat v ++ rest)) 0 = some (.erun r v)) ∧
  (∀ (k : Nat) rest, 1 ≤ k → k ≤ 3 → rest.head? ≠ some (0xF7 : Byte) →
    selectF7 (Buffer.ofList (List.replicate k 0xF7 ++ rest)) 0 = some .eesc) ∧
  (∀ (k : Nat) (v : Byte) rest, 1 ≤ k → k ≤ 3 → (Instr.ebyte v).wf = true → rest.head? ≠ some v →
    selectF7 (Buffer.ofList (List.replicate k v ++ rest)) 0 = some (.ebyte v))

/-- R16: a CTRL write with START = 1 launches the operation of its own OP bits whatever CLEAR is; with CLEAR = 1 alone it
is a CLEAR; with neither it stores OP outside BUSY and does nothing else. The bits R16 does not name change nothing. -/
def Obligations.CtrlWriteMeansItsFields : Prop :=
  (∀ (v : Word) op, v.getLsbD 8 = true → v.setWidth 2 = op.bits → decodeCtrl v = some (startOf op)) ∧
  (∀ (v : Word) op, v.getLsbD 8 = false → v.getLsbD 9 = true → v.setWidth 2 = op.bits →
    decodeCtrl v = some (.clear op)) ∧
  (∀ s (v : Word) op rest, v.getLsbD 8 = false → v.getLsbD 9 = false → v.setWidth 2 = op.bits →
    s.inputs = .writeReg 0x00 v :: rest →
    step s = .next (if s.busy then { s with inputs := rest } else { s with inputs := rest, ctrlOp := op })) ∧
  (∀ op, decode .ctrl (encode (startOf op)) = .ok (startOf op) ∧
    decode .ctrl (encode (.clear op)) = .ok (.clear op))

/-- R70, R78: the assembler forms with distance D and length N stand for commands that reach distance D and copy N
bytes, over their whole ranges. -/
def Obligations.AssemblerFormsReachTheirDistance : Prop :=
  (∀ d n, 1 ≤ d → d ≤ 256 → 2 ≤ n → n ≤ 5 →
    distance (asmShort d n) = d ∧ produced (asmShort d n) = n ∧ (asmShort d n).wf = true) ∧
  (∀ d n, 1 ≤ d → d ≤ 8192 → 3 ≤ n → n ≤ 9 →
    distance (asmLong d n) = d ∧ produced (asmLong d n) = n ∧ (asmLong d n).wf = true) ∧
  (∀ d n, 1 ≤ d → d ≤ 8192 → 3 ≤ n → n ≤ 257 →
    distance (asmLongx d n) = d ∧ produced (asmLongx d n) = n ∧ (asmLongx d n).wf = true)

/-- The spec's own inference R167, the mirror law: for a list of well-formed LIT, SHORT, LONG and LONGX whose references
all point inside the output so far, HSQ_DEC on the file the Bit Writer lays out for that list and EOF executes exactly
these commands in order, one a step after the header parse, and ends in DONE with the bytes the list produces. Where the
file is too long for its compressed_size field, that field is a free value (entry 16 of the log). -/
def Obligations.DecoderMirrorsTheBitWriter : Prop :=
  ∀ (s : State) (l : List Instr) (out : List Byte),
    ready s → (∀ i ∈ l, i.wf = true) → produce [] l = some out → out.length ≤ 65535 →
    out.length ≤ s.params.outCap → holds s (hsqFile out.length (l ++ [asmEof])) →
    (∀ k i, (l ++ [asmEof])[k]? = some i →
      ∃ u v, runs (k + 1) (s.start .hsqDec) = .next u ∧ fetch u = .run i v) ∧
    ∃ t, runs (l.length + 2) (s.start .hsqDec) = .next t ∧ result t = some out ∧ t.stopr = .eof ∧
      t.ovr = false ∧ t.sigok = true

/-! ## HSQ commands -/

/-- R102: LIT with OLEN < DSIZE reads one raw byte after its control bit and appends it; no byte left raises
TruncatedStream, no room SizeLimitExceeded. -/
def Obligations.LiteralAppendsItsByte : Prop :=
  (∀ b s, s.olen < s.params.outCap → ∃ t, exec (.lit b) s = .next t ∧ appended s [b] 0 t) ∧
  (∀ b s, s.params.outCap ≤ s.olen → ∃ t, exec (.lit b) s = .next t ∧ raised s .sizeLimitExceeded s.cur 2 t) ∧
  (∀ s p, s.inputs = [] → s.ph = .hsq → getBit s.buffer s.pos = .ok (true, p) → s.olen < s.dsize.toNat →
    (p.cur < s.ilen → step s = exec (.lit (s.inByte p.cur)) { s with cur := p.cur + 1, q := p.q }) ∧
    (s.ilen ≤ p.cur → ∃ t, step s = .next t ∧ raised s .truncatedStream p.cur 1 t))

/-- R103: a literal bit with OLEN >= DSIZE stops the operation without reading a byte: DONE with STOPR = LITFULL, and
CUR and Q change only as the GetBit itself changed them. -/
def Obligations.LiteralAtFullOutputStops : Prop :=
  (∀ s, s.dsize.toNat ≤ s.olen → exec .litStop s =
    .next { s with rlen := s.dsize.toNat, ovr := decide (s.olen > s.dsize.toNat), stopr := .litFull, ph := .done }) ∧
  (∀ s p, s.inputs = [] → s.ph = .hsq → getBit s.buffer s.pos = .ok (true, p) → s.dsize.toNat ≤ s.olen →
    step s = .next { s with
      cur := p.cur, q := p.q, rlen := s.dsize.toNat, ovr := decide (s.olen > s.dsize.toNat), stopr := .litFull,
      ph := .done })

/-- R108 for LONG, LONGX and SHORT: with the distance at most OLEN and room, they copy their length byte by byte: each
byte appended equals the byte their distance before it, and nothing else changes. A distance above OLEN raises
InvalidBackReference; without room for the whole length it is SizeLimitExceeded; either before any byte is appended. -/
def Obligations.BackReferencesCopyByteByByte : Prop :=
  (∀ (field : BitVec 13) (count : BitVec 3) s, 8192 - field.toNat ≤ s.olen →
    s.olen + (count.toNat + 2) ≤ s.params.outCap →
    ∃ t, exec (.long field count) s = .next t ∧ copied s (8192 - field.toNat) (count.toNat + 2) t) ∧
  (∀ (field : BitVec 13) (x : Byte) s, 8192 - field.toNat ≤ s.olen →
    s.olen + (x.toNat + 2) ≤ s.params.outCap →
    ∃ t, exec (.longx field x) s = .next t ∧ copied s (8192 - field.toNat) (x.toNat + 2) t) ∧
  (∀ (count : BitVec 2) (b : Byte) s, 256 - b.toNat ≤ s.olen →
    s.olen + (count.toNat + 2) ≤ s.params.outCap →
    ∃ t, exec (.short count b) s = .next t ∧ copied s (256 - b.toNat) (count.toNat + 2) t) ∧
  (∀ i s, s.olen < distance i →
    ∃ t, exec i s = .next t ∧ raised s .invalidBackReference s.cur (distance i) t) ∧
  (∀ i s, 0 < distance i → distance i ≤ s.olen → s.params.outCap < s.olen + produced i →
    ∃ t, exec i s = .next t ∧ raised s .sizeLimitExceeded s.cur 2 t)

/-- The spec's own inference in R108: an overlapping copy repeats the last d bytes periodically; with distance 1 it
repeats the last byte (R203). -/
def Obligations.OverlappingCopyRepeatsItsPeriod : Prop :=
  ∀ (s : State) (d n : Nat), 1 ≤ d → d ≤ s.olen → s.olen + n ≤ s.params.outCap →
    ∃ t, s.copy d n = .ok t ∧ ∀ k < n, t.outByte (s.olen + k) = s.outByte (s.olen - d + k % d)

/-- R184: a SHORT, LONG or LONGX whose distance exceeds OLEN raises InvalidBackReference with that distance, and appends
nothing; an EOF never does, whatever its offset field. -/
def Obligations.InvalidBackReferenceIsRaised : Prop :=
  (∀ i s, appends i = true → s.olen < distance i →
    ∃ t, exec i s = .next t ∧ raised s .invalidBackReference s.cur (distance i) t) ∧
  (∀ field s t, exec (.eof field) s = .next t → t.ph = .fault → t.cause = .formatError)

/-- R109: the finish after EOF or LIT.stop: with OLEN >= DSIZE the result is the first DSIZE bytes, OVR tells an overrun
and nothing else changes; with OLEN < DSIZE it is FormatError with FINFO = 2. -/
def Obligations.HsqFinishReturnsExactlyDsizeBytes : Prop :=
  (∀ field s, s.dsize.toNat ≤ s.olen → exec (.eof field) s =
    .next { s with rlen := s.dsize.toNat, ovr := decide (s.olen > s.dsize.toNat), stopr := .eof, ph := .done }) ∧
  (∀ s, s.dsize.toNat ≤ s.olen → exec .litStop s =
    .next { s with rlen := s.dsize.toNat, ovr := decide (s.olen > s.dsize.toNat), stopr := .litFull, ph := .done }) ∧
  (∀ field s, s.olen < s.dsize.toNat →
    ∃ t, exec (.eof field) s = .next t ∧ raised s .formatError s.cur 2 t)

/-- The spec's own inference R111: once OLEN >= DSIZE, no HSQ step that does not fault changes the first DSIZE bytes. -/
def Obligations.OverrunNeverReachesTheResult : Prop :=
  ∀ s t, engineMoves s → s.ph = .hsq → s.dsize.toNat ≤ s.olen → step s = .next t → t.ph ≠ .fault →
    t.dsize = s.dsize ∧ s.dsize.toNat ≤ t.olen ∧ ∀ a < s.dsize.toNat, t.outByte a = s.outByte a

/-- The spec's own inference in R110 and R126: a step that stays in the loop of an operation moves CUR strictly forward
and not past ILEN. -/
def Obligations.LoopStepsMoveTheCursor : Prop :=
  ∀ s t, engineMoves s → (s.ph = .hsq ∨ s.ph = .f7d ∨ s.ph = .f7e) → step s = .next t → t.ph = s.ph →
    s.cur < t.cur ∧ t.cur ≤ s.ilen

/-! ## F7 elements -/

/-- R121 to R124: what each F7 decoder element appends and how far it moves CUR; without room it raises
SizeLimitExceeded at the CUR it started from. -/
def Obligations.F7DecoderElementsAppend : Prop :=
  (∀ s, s.olen < s.params.outCap → ∃ t, exec .esc s = .next t ∧ appended s [0xF7] 3 t) ∧
  (∀ nn vv s, s.olen + nn.toNat ≤ s.params.outCap →
    ∃ t, exec (.run nn vv) s = .next t ∧ appended s (List.replicate nn.toNat vv) 3 t) ∧
  (∀ b s, s.olen < s.params.outCap → ∃ t, exec (.byte b) s = .next t ∧ appended s [b] 1 t) ∧
  (∀ b s, s.olen < s.params.outCap → ∃ t, exec (.tail b) s = .next t ∧ appended s [b] 1 t) ∧
  (∀ i s, (i = .esc ∨ (∃ nn vv, i = .run nn vv) ∨ (∃ b, i = .byte b) ∨ ∃ b, i = .tail b) →
    s.params.outCap < s.olen + produced i →
    ∃ t, exec i s = .next t ∧ raised s .sizeLimitExceeded s.cur 2 t)

/-- R120: which element an F7D step runs, by the bytes remaining and the three bytes at CUR; with none remaining it is
the finish of R125. -/
def Obligations.F7DecoderSelectsByItsWindow : Prop :=
  ∀ s, s.inputs = [] → s.ph = .f7d → s.cur ≤ s.ilen →
    step s =
      if s.ilen - s.cur = 0 then .next { s with rlen := s.olen, stopr := .endIn, ph := .done }
      else if s.ilen - s.cur ≥ 3 ∧ s.inByte s.cur = 0xF7 ∧ s.inByte (s.cur + 1) = 0x01 ∧ s.inByte (s.cur + 2) = 0xF7 then
        exec .esc s
      else if s.ilen - s.cur ≥ 3 ∧ s.inByte s.cur = 0xF7 ∧ (s.inByte (s.cur + 1)).toNat > 2 then
        exec (.run (s.inByte (s.cur + 1)) (s.inByte (s.cur + 2))) s
      else if s.ilen - s.cur ≥ 3 then exec (.byte (s.inByte s.cur)) s
      else exec (.tail (s.inByte s.cur)) s

/-- R131 to R133: what each F7 encoder element appends and how far it moves CUR; without room it raises
SizeLimitExceeded at the CUR it started from. -/
def Obligations.F7EncoderElementsAppend : Prop :=
  (∀ r v s, s.olen + 3 ≤ s.params.outCap →
    ∃ t, exec (.erun r v) s = .next t ∧ appended s [0xF7, r, v] r.toNat t) ∧
  (∀ s, s.olen + 3 ≤ s.params.outCap → ∃ t, exec .eesc s = .next t ∧ appended s [0xF7, 0x01, 0xF7] 1 t) ∧
  (∀ v s, s.olen < s.params.outCap → ∃ t, exec (.ebyte v) s = .next t ∧ appended s [v] 1 t) ∧
  (∀ i s, ((∃ r v, i = .erun r v) ∨ i = .eesc ∨ ∃ v, i = .ebyte v) →
    s.params.outCap < s.olen + produced i →
    ∃ t, exec i s = .next t ∧ raised s .sizeLimitExceeded s.cur 2 t)

/-- R130: with input left, an F7E step runs the element its run measure r selects: r bytes equal to IN[CUR] stand at CUR
within ILEN, r is at most 255, and below 255 the run ends there; above 3 it is ERUN, else EESC or EBYTE by the byte. -/
def Obligations.F7EncoderSelectsByTheRunMeasure : Prop :=
  (∀ s, s.inputs = [] → s.ph = .f7e → s.cur = s.ilen →
    step s = .next { s with rlen := s.olen, stopr := .endIn, ph := .done }) ∧
  (∀ s, s.inputs = [] → s.ph = .f7e → s.cur < s.ilen →
    ∃ r, 1 ≤ r ∧ r ≤ 255 ∧ s.cur + r ≤ s.ilen ∧ (∀ k < r, s.inByte (s.cur + k) = s.inByte s.cur) ∧
      (r = 255 ∨ s.cur + r = s.ilen ∨ s.inByte (s.cur + r) ≠ s.inByte s.cur) ∧
      step s =
        if r > 3 then exec (.erun (BitVec.ofNat 8 r) (s.inByte s.cur)) s
        else if s.inByte s.cur = 0xF7 then exec .eesc s
        else exec (.ebyte (s.inByte s.cur)) s)

/-- R126 and R134: an F7 operation raises none of the four faults but SizeLimitExceeded for the output capacity. -/
def Obligations.F7OperationsFaultOnlyOnCapacity : Prop :=
  ∀ s t, engineMoves s → (s.ph = .f7d ∨ s.ph = .f7e) → step s = .next t → t.ph = .fault →
    t.cause = .sizeLimitExceeded ∧ t.finfo = 2 ∧ t.faddr = s.cur ∧ s.params.outCap < s.olen + 255

/-! ## Host operations -/

/-- R140, R150: HSQ_DEC, HSQ_SIZES, F7_DEC and F7_ENC outside BUSY wipe the previous operation, latch OP and enter their
first phase; with ILEN > IN_CAP they end at once in SizeLimitExceeded (FADDR 0, FINFO 1); while BUSY they are ignored. A
host write to CTRL with bit 8 set runs the one its OP bits name. -/
def Obligations.StartLaunchesTheOperation : Prop :=
  ∀ (op : OpCode) (s : State),
    (s.busy = true → exec (startOf op) s = .next s) ∧
    (s.busy = false → s.ilen ≤ s.params.inCap → exec (startOf op) s = .next { s with
      opl := op, ctrlOp := op, cur := 0, q := 0, olen := 0, rlen := 0, dsize := 0, csize := 0, csum := 0,
      cause := .noFault, faddr := 0, finfo := 0, stopr := .nothing, sigok := false, ovr := false,
      ph := match op with
        | .hsqDec | .hsqSizes => .hdr
        | .f7Dec => .f7d
        | .f7Enc => .f7e }) ∧
    (s.busy = false → s.params.inCap < s.ilen → ∃ t, exec (startOf op) s = .next t ∧
      raised { s with opl := op, ctrlOp := op, dsize := 0, csize := 0, csum := 0, sigok := false }
        .sizeLimitExceeded 0 1 t) ∧
    (∀ (v : Word) rest, s.inputs = .writeReg 0x00 v :: rest → v.getLsbD 8 = true → v.setWidth 2 = op.bits →
      step s = exec (startOf op) { s with inputs := rest })

/-- R145: CLEAR in DONE or FAULT returns to IDLE with STATUS, RLEN and the fault record 0; in IDLE it is ignored but for
the OP bits, which every CTRL write outside BUSY stores; while BUSY nothing happens. A host write to CTRL with bit 9 set
and bit 8 clear runs it. -/
def Obligations.ClearReturnsToIdle : Prop :=
  ∀ (op : OpCode) (s : State),
    ((s.ph = .done ∨ s.ph = .fault) → ∃ t, exec (.clear op) s = .next t ∧ t.status = 0 ∧
      t = { s with
        ctrlOp := op, ph := .idle, stopr := .nothing, sigok := false, ovr := false, rlen := 0, cause := .noFault,
        faddr := 0, finfo := 0 }) ∧
    (s.ph = .idle → exec (.clear op) s = .next { s with ctrlOp := op }) ∧
    (s.busy = true → exec (.clear op) s = .next s) ∧
    (∀ (v : Word) rest, s.inputs = .writeReg 0x00 v :: rest → v.getLsbD 8 = false → v.getLsbD 9 = true →
      v.setWidth 2 = op.bits → step s = exec (.clear op) { s with inputs := rest })

/-- R185: what raise writes, what it keeps, and that no further step is taken. -/
def Obligations.RaiseEndsTheOperation : Prop :=
  ∀ (s : State) (x : Cause) (addr info : Nat),
    raised s x addr info (s.raise x addr info) ∧
    (s.inputs = [] → step (s.raise x addr info) = .next (s.raise x addr info))

/-- R100: the header parse. Fewer than 6 bytes are FormatError (FADDR 0, FINFO 1); otherwise the two sizes are read
little-endian, CSUM is the sum of the six bytes modulo 256, SIGOK tells whether it is 0xAB, CUR is 6 and Q empty, and no
other test is made. -/
def Obligations.HeaderParseReadsTheSizes : Prop :=
  ∀ s, s.inputs = [] → s.ph = .hdr →
    (s.ilen < 6 → ∃ t, step s = .next t ∧ raised s .formatError 0 1 t) ∧
    (6 ≤ s.ilen → ∃ t, step s = .next t ∧
      t.dsize.toNat = (s.inByte 0).toNat + 256 * (s.inByte 1).toNat ∧
      t.csize.toNat = (s.inByte 3).toNat + 256 * (s.inByte 4).toNat ∧
      t.csum.toNat = ((s.inByte 0).toNat + (s.inByte 1).toNat + (s.inByte 2).toNat + (s.inByte 3).toNat +
        (s.inByte 4).toNat + (s.inByte 5).toNat) % 256 ∧
      t.sigok = decide (t.csum = 0xAB) ∧
      t = { s with
        dsize := t.dsize, csize := t.csize, csum := t.csum, sigok := t.sigok, cur := 6, q := 0,
        rlen := if s.opl = .hsqSizes then 0 else s.rlen,
        stopr := if s.opl = .hsqSizes then .endIn else s.stopr,
        ph := if s.opl = .hsqSizes then .done else .hsq })

/-- R142: HSQ_SIZES completes in the header parse: DSIZE, CSIZE, CSUM, SIGOK from the six header bytes, STOPR = ENDIN,
RLEN = 0, OUT not written; fewer than 6 bytes are FormatError with FINFO = 1. -/
def Obligations.HsqSizesReadsTheHeaderOnly : Prop :=
  ∀ s, ready s →
    (6 ≤ s.ilen → ∃ t, runs 1 (s.start .hsqSizes) = .next t ∧ t.ph = .done ∧ t.stopr = .endIn ∧ t.rlen = 0 ∧
      t.dsize.toNat = (s.inByte 0).toNat + 256 * (s.inByte 1).toNat ∧
      t.csize.toNat = (s.inByte 3).toNat + 256 * (s.inByte 4).toNat ∧
      t.csum.toNat = ((s.inByte 0).toNat + (s.inByte 1).toNat + (s.inByte 2).toNat + (s.inByte 3).toNat +
        (s.inByte 4).toNat + (s.inByte 5).toNat) % 256 ∧
      t.sigok = decide (t.csum = 0xAB) ∧ t.outMem = s.outMem ∧ t.outGen = s.outGen) ∧
    (s.ilen < 6 → ∃ t, runs 1 (s.start .hsqSizes) = .next t ∧ t.ph = .fault ∧ t.cause = .formatError ∧
      t.faddr = 0 ∧ t.finfo = 1)

/-! ## Frames -/

/-- The frame of LIT, LONG, LONGX, SHORT, ESC, RUN, BYTE, TAIL, ERUN, EESC and EBYTE where they complete: OLEN grows by
the bytes appended and CUR moves by what the element consumes (0 for an HSQ command, whose bytes are already read); every
other register, flag and field is as before; every byte of OUT outside [OLEN, OLEN + length) and every byte of IN is as
before. -/
def Obligations.AppendingInstructionsFrame : Prop :=
  ∀ i s t, appends i = true → distance i ≤ s.olen → s.olen + produced i ≤ s.params.outCap → exec i s = .next t →
    t = { s with outMem := t.outMem, olen := s.olen + produced i, cur := s.cur + consumed i } ∧
    (∀ a, a < s.olen ∨ s.olen + produced i ≤ a → t.outByte a = s.outByte a) ∧
    (∀ a, t.inByte a = s.inByte a)

/-- The frame of LIT.stop, EOF, HSQ_DEC, HSQ_SIZES, F7_DEC, F7_ENC and CLEAR, which store nothing: IN, ILEN, the
parameters and the model's input and read fields are as before, and so is every byte of OUT unless the instruction raised
a fault. LIT.stop and EOF leave the header latches, SIGOK, OP and OPL; CLEAR leaves the latches, CUR, OLEN, Q and OPL. -/
def Obligations.StoringNothingFrame : Prop :=
  ∀ i s t, appends i = false → exec i s = .next t →
    (∀ a, t.inByte a = s.inByte a) ∧ t.ilen = s.ilen ∧ t.params = s.params ∧ t.inputs = s.inputs ∧
    t.rdata = s.rdata ∧ (t.ph ≠ .fault → ∀ a, t.outByte a = s.outByte a) ∧
    ((i = .litStop ∨ ∃ field, i = .eof field) → t.dsize = s.dsize ∧ t.csize = s.csize ∧ t.csum = s.csum ∧
      t.sigok = s.sigok ∧ t.ctrlOp = s.ctrlOp ∧ t.opl = s.opl ∧
      (t.ph ≠ .fault → t.cur = s.cur ∧ t.q = s.q ∧ t.olen = s.olen ∧ t.cause = s.cause ∧ t.faddr = s.faddr ∧
        t.finfo = s.finfo)) ∧
    ((∃ op, i = .clear op) → t.dsize = s.dsize ∧ t.csize = s.csize ∧ t.csum = s.csum ∧ t.opl = s.opl ∧
      t.cur = s.cur ∧ t.olen = s.olen ∧ t.q = s.q ∧ ∀ a, t.outByte a = s.outByte a)

/-- R25, R52, R55: the engine's own steps never write IN or ILEN, and no step changes the parameters. -/
def Obligations.EngineNeverWritesItsInput : Prop :=
  (∀ s t, engineMoves s → step s = .next t → t.ilen = s.ilen ∧ ∀ a, t.inByte a = s.inByte a) ∧
  (∀ s t, step s = .next t → t.params = s.params)

/-! ## The host's accesses -/

/-- R24, R149: a host write of any register, of IN or of OUT while BUSY changes no state: the machine goes on as if the
write had not been made. -/
def Obligations.HostWritesWhileBusyAreIgnored : Prop :=
  ∀ s e rest, s.busy = true → hostWrites s e → s.inputs = e :: rest → step s = .next { s with inputs := rest }

/-- R24: a host write to a register other than CTRL and ILEN, or to OUT, is ignored in every state: nothing but the move
itself is gone. -/
def Obligations.HostWritesToReadOnlyPlacesAreIgnored : Prop :=
  ∀ s e rest, writesReadOnly s e → s.inputs = e :: rest → step s = .next { s with inputs := rest }

/-- R16 to R24 and the register map of 10_state.md section 4: what a host read returns, register by register at its
offset. STATUS is exact in every state, the others outside BUSY, CUR, OLEN and Q there but in FAULT; a 32-bit index is
read modulo 2^32, which it never reaches (R13). Outside BUSY a read of IN returns its byte. No read of a register, of IN or
of OUT changes the engine: only the model's own read value and draw counter change (entries 4 and 7 of the log). -/
def Obligations.HostReadsAreExactWhereSpecified : Prop :=
  (∀ s, reads s 0x04 (
    (match s.ph with | .idle => 0 | .hdr | .hsq | .f7d | .f7e => 1 | .done => 2 | .fault => 3) +
    4 * (match s.stopr with | .nothing => 0 | .eof => 1 | .litFull => 2 | .endIn => 3) +
    16 * (if s.sigok = true then 1 else 0) + 32 * (if s.ovr = true then 1 else 0))) ∧
  (∀ s, settled s →
    reads s 0x00 (match s.ctrlOp with | .hsqDec => 0 | .hsqSizes => 1 | .f7Dec => 2 | .f7Enc => 3) ∧
    reads s 0x08 (s.ilen % 2 ^ 32) ∧
    reads s 0x0C (s.rlen % 2 ^ 32) ∧
    reads s 0x10 (match s.cause with
      | .noFault => 0 | .formatError => 1 | .truncatedStream => 2 | .sizeLimitExceeded => 3
      | .invalidBackReference => 4) ∧
    reads s 0x14 (s.faddr % 2 ^ 32) ∧
    reads s 0x18 (s.finfo % 2 ^ 32) ∧
    reads s 0x1C s.dsize.toNat ∧
    reads s 0x20 s.csize.toNat ∧
    reads s 0x24 s.csum.toNat) ∧
  (∀ s, s.ph = .idle ∨ s.ph = .done →
    reads s 0x28 (s.cur % 2 ^ 32) ∧
    reads s 0x2C (s.olen % 2 ^ 32) ∧
    reads s 0x30 s.q.toNat) ∧
  (∀ s a rest, settled s → a < s.params.inCap → s.inputs = .readIn a :: rest →
    step s = .next { s with inputs := rest, rdata := (s.inByte a).setWidth 32 }) ∧
  (∀ s t e rest, ((∃ offset, e = .readReg offset) ∨ (∃ a, e = .readIn a) ∨ ∃ a, e = .readOut a) →
    s.inputs = e :: rest → step s = .next t →
    t = { s with inputs := rest, rdata := t.rdata, draws := t.draws })

/-- R26, R147, R205: in DONE a host read of OUT below RLEN returns the result's byte; anywhere else in OUT it returns a
free value, so that bytes beyond the result are not exposed (U1). -/
def Obligations.HostReadsTheResultOnly : Prop :=
  (∀ s a rest, s.ph = .done → a < s.rlen → a < s.params.outCap → s.inputs = .readOut a :: rest →
    step s = .next { s with inputs := rest, rdata := (s.outByte a).setWidth 32 }) ∧
  (∀ s a rest, (s.ph ≠ .done ∨ s.rlen ≤ a) → a < s.params.outCap → s.inputs = .readOut a :: rest →
    step s = .next { s with
      inputs := rest, rdata := ((Config.freeRead s.draws).setWidth 8).setWidth 32, draws := s.draws + 1 })

/-- R18, R25: outside BUSY a host write of ILEN or of a byte of IN takes effect, and changes nothing else. -/
def Obligations.HostLoadsTheInput : Prop :=
  (∀ s (v : Word) rest, s.busy = false → s.inputs = .writeReg 0x08 v :: rest →
    step s = .next { s with inputs := rest, ilen := v.toNat }) ∧
  (∀ s a b rest, s.busy = false → a < s.params.inCap → s.inputs = .writeIn a b :: rest →
    ∃ t, step s = .next t ∧ t = { s with inputs := rest, inMem := t.inMem } ∧ t.inByte a = b ∧
      ∀ x, x ≠ a → t.inByte x = s.inByte x)

/-! ## Whole operations -/

/-- The spec's own inference R207: every operation that is launched reaches DONE or FAULT within its step bound: HSQ_DEC
1 + (ILEN - 5), HSQ_SIZES 1, the F7 operations ILEN + 1. -/
def Obligations.EveryOperationEndsWithinItsBound : Prop :=
  ∀ s op, ready s → ∃ n t, n ≤ stepBound op s.ilen ∧ runs n (s.start op) = .next t ∧
    (t.ph = .done ∨ t.ph = .fault)

/-- R5, and the spec's own inference R148: what the spec fixes during and after an operation depends on the launch
arguments alone: two machines with the same operation, ILEN, IN[0..ILEN-1] and parameters, whatever else differs in them,
agree after every number of steps on phase, CTRL, STATUS, ILEN, RLEN, fault record, header latches and result, and in DONE
on CUR, OLEN and Q. -/
def Obligations.ResultDependsOnTheArgumentsOnly : Prop :=
  ∀ s1 s2 op n, ready s1 → ready s2 → sameArguments s1 s2 →
    ∃ t1 t2, runs n (s1.start op) = .next t1 ∧ runs n (s2.start op) = .next t2 ∧ observed t1 = observed t2

/-- R143, R148: F7_DEC on any input computes the F7 decoding function: DONE with STOPR = ENDIN, and the result is that
function of the input bytes. -/
def Obligations.F7DecComputesTheDecoding : Prop :=
  ∀ s data, ready s → holds s data → 257 * s.params.inCap ≤ s.params.outCap →
    ∃ n t, n ≤ data.length + 1 ∧ runs n (s.start .f7Dec) = .next t ∧ result t = some (f7Decode data) ∧
      t.stopr = .endIn ∧ t.cause = .noFault

/-- R144, R148: F7_ENC on any input computes the F7 encoding function. -/
def Obligations.F7EncComputesTheEncoding : Prop :=
  ∀ s data, ready s → holds s data → 257 * s.params.inCap ≤ s.params.outCap →
    ∃ n t, n ≤ data.length + 1 ∧ runs n (s.start .f7Enc) = .next t ∧ result t = some (f7Encode data) ∧
      t.stopr = .endIn ∧ t.cause = .noFault

/-- R135, the round-trip law, on the machine: F7_ENC on any input ends in DONE with some output, and F7_DEC on any engine
whose input is that output ends in DONE with the first input's bytes. -/
def Obligations.F7RoundTripsOnTheMachine : Prop :=
  ∀ s data, ready s → holds s data → 257 * s.params.inCap ≤ s.params.outCap →
    ∃ n t packed, n ≤ data.length + 1 ∧ runs n (s.start .f7Enc) = .next t ∧ result t = some packed ∧
      ∀ s2, ready s2 → holds s2 packed → 257 * s2.params.inCap ≤ s2.params.outCap →
        ∃ m u, m ≤ packed.length + 1 ∧ runs m (s2.start .f7Dec) = .next u ∧ result u = some data

/-- R135, the round-trip law for the two codecs as functions: decompressing the compression of any bytes gives the
bytes. -/
def Obligations.F7RoundTripsEveryBuffer : Prop := ∀ data : List Byte, f7Decode (f7Encode data) = data

/-- The spec's own inference R136: an encoding is at most three times as long as its input. -/
def Obligations.F7EncodingIsAtMostTripled : Prop := ∀ data : List Byte, (f7Encode data).length ≤ 3 * data.length
end

