-- ==== Sys2Proof/Laws/Mem.lean ====
section
/-! SUPPORT. Byte memories: a read after a write, a write elsewhere, and that every operation keeps the canonical
form and the bound on the indices. -/

namespace Sys2Proof.Machine

@[simp] theorem Mem.get_set_same (m : Mem) (a : Nat) (b : Byte) : Mem.get (Mem.set m a b) a = some b := by
  induction m with
  | nil => simp [Mem.set, Mem.get]
  | cons c m ih =>
    obtain ⟨k, v⟩ := c
    simp only [Mem.set]
    split
    · simp [Mem.get]
    · split
      · simp [Mem.get]
      · rename_i h1 h2
        simp [Mem.get, ih, Ne.symm h2]

theorem Mem.get_set_other (m : Mem) {a x : Nat} (b : Byte) (h : x ≠ a) : Mem.get (Mem.set m a b) x = Mem.get m x := by
  induction m with
  | nil => simp [Mem.set, Mem.get, Ne.symm h]
  | cons c m ih =>
    obtain ⟨k, v⟩ := c
    simp only [Mem.set]
    split
    · simp [Mem.get, Ne.symm h]
    · split
      · rename_i h1 h2
        subst h2
        simp [Mem.get, Ne.symm h]
      · simp [Mem.get, ih]

theorem Mem.get_set (m : Mem) (a x : Nat) (b : Byte) :
    Mem.get (Mem.set m a b) x = if x = a then some b else Mem.get m x := by
  split
  · next h => subst h; simp
  · next h => exact Mem.get_set_other m b h

/-- A byte that was listed stays listed. -/
theorem Mem.isSome_set (m : Mem) (a x : Nat) (b : Byte) (h : (Mem.get m x).isSome = true) :
    (Mem.get (Mem.set m a b) x).isSome = true := by
  rw [Mem.get_set]
  split
  · rfl
  · exact h

theorem Mem.risesFrom_set {lo : Nat} {m : Mem} {a : Nat} (b : Byte) (hm : Mem.risesFrom lo m = true) (ha : lo ≤ a) :
    Mem.risesFrom lo (Mem.set m a b) = true := by
  induction m generalizing lo with
  | nil => simp [Mem.set, Mem.risesFrom, ha]
  | cons c m ih =>
    obtain ⟨k, v⟩ := c
    simp only [Mem.risesFrom, Bool.and_eq_true, decide_eq_true_eq] at hm
    simp only [Mem.set]
    split
    · next h => simp only [Mem.risesFrom, Bool.and_eq_true, decide_eq_true_eq]; exact ⟨ha, h, hm.2⟩
    · split
      · next h1 h2 => subst h2; simp only [Mem.risesFrom, Bool.and_eq_true, decide_eq_true_eq]; exact ⟨ha, hm.2⟩
      · next h1 h2 =>
        simp only [Mem.risesFrom, Bool.and_eq_true, decide_eq_true_eq]
        exact ⟨hm.1, ih hm.2 (by omega)⟩

/-- A write keeps the canonical form. -/
theorem Mem.wf_set {m : Mem} (a : Nat) (b : Byte) (hm : Mem.wf m = true) : Mem.wf (Mem.set m a b) = true :=
  Mem.risesFrom_set b hm (Nat.zero_le a)

/-- A write of consecutive bytes keeps the canonical form. -/
theorem Mem.wf_setList {m : Mem} (a : Nat) (bs : List Byte) (hm : Mem.wf m = true) :
    Mem.wf (Mem.setList m a bs) = true := by
  induction bs generalizing m a with
  | nil => exact hm
  | cons b bs ih => exact ih (a + 1) (Mem.wf_set a b hm)

/-- A write below the bound keeps every index below the bound. -/
theorem Mem.below_set {n : Nat} {m : Mem} {a : Nat} (b : Byte) (hm : Mem.below n m = true) (ha : a < n) :
    Mem.below n (Mem.set m a b) = true := by
  induction m with
  | nil => simp [Mem.set, Mem.below, ha]
  | cons c m ih =>
    obtain ⟨k, v⟩ := c
    simp only [Mem.below, List.all_cons, Bool.and_eq_true, decide_eq_true_eq] at hm ih
    simp only [Mem.set]
    split
    · simp only [Mem.below, List.all_cons, Bool.and_eq_true, decide_eq_true_eq]; exact ⟨ha, hm⟩
    · split
      · simp only [Mem.below, List.all_cons, Bool.and_eq_true, decide_eq_true_eq]; exact ⟨ha, hm.2⟩
      · simp only [Mem.below, List.all_cons, Bool.and_eq_true, decide_eq_true_eq]; exact ⟨hm.1, ih hm.2⟩

/-- The memories of the reset state are in canonical form. -/
theorem Mem.wf_reset : Mem.wf State.reset.inMem = true ∧ Mem.wf State.reset.outMem = true := ⟨rfl, rfl⟩

end Sys2Proof.Machine
end

