-- ==== Sys2Proof/Laws/State.lean ====
section
/-! SUPPORT. What each update of the state leaves in each field: one lemma per field per update. -/

namespace Sys2Proof.Machine

/-! ### withPos -/

@[simp] theorem State.withPos_q (s : State) (p : Pos) : (s.withPos p).q = p.q := rfl
@[simp] theorem State.withPos_cur (s : State) (p : Pos) : (s.withPos p).cur = p.cur := rfl
@[simp] theorem State.withPos_olen (s : State) (p : Pos) : (s.withPos p).olen = s.olen := rfl
@[simp] theorem State.withPos_dsize (s : State) (p : Pos) : (s.withPos p).dsize = s.dsize := rfl
@[simp] theorem State.withPos_csize (s : State) (p : Pos) : (s.withPos p).csize = s.csize := rfl
@[simp] theorem State.withPos_csum (s : State) (p : Pos) : (s.withPos p).csum = s.csum := rfl
@[simp] theorem State.withPos_ph (s : State) (p : Pos) : (s.withPos p).ph = s.ph := rfl
@[simp] theorem State.withPos_opl (s : State) (p : Pos) : (s.withPos p).opl = s.opl := rfl
@[simp] theorem State.withPos_ctrlOp (s : State) (p : Pos) : (s.withPos p).ctrlOp = s.ctrlOp := rfl
@[simp] theorem State.withPos_stopr (s : State) (p : Pos) : (s.withPos p).stopr = s.stopr := rfl
@[simp] theorem State.withPos_sigok (s : State) (p : Pos) : (s.withPos p).sigok = s.sigok := rfl
@[simp] theorem State.withPos_ovr (s : State) (p : Pos) : (s.withPos p).ovr = s.ovr := rfl
@[simp] theorem State.withPos_ilen (s : State) (p : Pos) : (s.withPos p).ilen = s.ilen := rfl
@[simp] theorem State.withPos_rlen (s : State) (p : Pos) : (s.withPos p).rlen = s.rlen := rfl
@[simp] theorem State.withPos_cause (s : State) (p : Pos) : (s.withPos p).cause = s.cause := rfl
@[simp] theorem State.withPos_faddr (s : State) (p : Pos) : (s.withPos p).faddr = s.faddr := rfl
@[simp] theorem State.withPos_finfo (s : State) (p : Pos) : (s.withPos p).finfo = s.finfo := rfl
@[simp] theorem State.withPos_inMem (s : State) (p : Pos) : (s.withPos p).inMem = s.inMem := rfl
@[simp] theorem State.withPos_outMem (s : State) (p : Pos) : (s.withPos p).outMem = s.outMem := rfl
@[simp] theorem State.withPos_params (s : State) (p : Pos) : (s.withPos p).params = s.params := rfl
@[simp] theorem State.withPos_inputs (s : State) (p : Pos) : (s.withPos p).inputs = s.inputs := rfl
@[simp] theorem State.withPos_rdata (s : State) (p : Pos) : (s.withPos p).rdata = s.rdata := rfl
@[simp] theorem State.withPos_draws (s : State) (p : Pos) : (s.withPos p).draws = s.draws := rfl
@[simp] theorem State.withPos_inGen (s : State) (p : Pos) : (s.withPos p).inGen = s.inGen := rfl
@[simp] theorem State.withPos_outGen (s : State) (p : Pos) : (s.withPos p).outGen = s.outGen := rfl

/-! ### advance -/

@[simp] theorem State.advance_q (s : State) (k : Nat) : (s.advance k).q = s.q := rfl
@[simp] theorem State.advance_cur (s : State) (k : Nat) : (s.advance k).cur = s.cur + k := rfl
@[simp] theorem State.advance_olen (s : State) (k : Nat) : (s.advance k).olen = s.olen := rfl
@[simp] theorem State.advance_dsize (s : State) (k : Nat) : (s.advance k).dsize = s.dsize := rfl
@[simp] theorem State.advance_csize (s : State) (k : Nat) : (s.advance k).csize = s.csize := rfl
@[simp] theorem State.advance_csum (s : State) (k : Nat) : (s.advance k).csum = s.csum := rfl
@[simp] theorem State.advance_ph (s : State) (k : Nat) : (s.advance k).ph = s.ph := rfl
@[simp] theorem State.advance_opl (s : State) (k : Nat) : (s.advance k).opl = s.opl := rfl
@[simp] theorem State.advance_ctrlOp (s : State) (k : Nat) : (s.advance k).ctrlOp = s.ctrlOp := rfl
@[simp] theorem State.advance_stopr (s : State) (k : Nat) : (s.advance k).stopr = s.stopr := rfl
@[simp] theorem State.advance_sigok (s : State) (k : Nat) : (s.advance k).sigok = s.sigok := rfl
@[simp] theorem State.advance_ovr (s : State) (k : Nat) : (s.advance k).ovr = s.ovr := rfl
@[simp] theorem State.advance_ilen (s : State) (k : Nat) : (s.advance k).ilen = s.ilen := rfl
@[simp] theorem State.advance_rlen (s : State) (k : Nat) : (s.advance k).rlen = s.rlen := rfl
@[simp] theorem State.advance_cause (s : State) (k : Nat) : (s.advance k).cause = s.cause := rfl
@[simp] theorem State.advance_faddr (s : State) (k : Nat) : (s.advance k).faddr = s.faddr := rfl
@[simp] theorem State.advance_finfo (s : State) (k : Nat) : (s.advance k).finfo = s.finfo := rfl
@[simp] theorem State.advance_inMem (s : State) (k : Nat) : (s.advance k).inMem = s.inMem := rfl
@[simp] theorem State.advance_outMem (s : State) (k : Nat) : (s.advance k).outMem = s.outMem := rfl
@[simp] theorem State.advance_params (s : State) (k : Nat) : (s.advance k).params = s.params := rfl
@[simp] theorem State.advance_inputs (s : State) (k : Nat) : (s.advance k).inputs = s.inputs := rfl
@[simp] theorem State.advance_rdata (s : State) (k : Nat) : (s.advance k).rdata = s.rdata := rfl
@[simp] theorem State.advance_draws (s : State) (k : Nat) : (s.advance k).draws = s.draws := rfl
@[simp] theorem State.advance_inGen (s : State) (k : Nat) : (s.advance k).inGen = s.inGen := rfl
@[simp] theorem State.advance_outGen (s : State) (k : Nat) : (s.advance k).outGen = s.outGen := rfl

/-! ### push -/

@[simp] theorem State.push_q (s : State) (v : Byte) : (s.push v).q = s.q := rfl
@[simp] theorem State.push_cur (s : State) (v : Byte) : (s.push v).cur = s.cur := rfl
@[simp] theorem State.push_olen (s : State) (v : Byte) : (s.push v).olen = s.olen + 1 := rfl
@[simp] theorem State.push_dsize (s : State) (v : Byte) : (s.push v).dsize = s.dsize := rfl
@[simp] theorem State.push_csize (s : State) (v : Byte) : (s.push v).csize = s.csize := rfl
@[simp] theorem State.push_csum (s : State) (v : Byte) : (s.push v).csum = s.csum := rfl
@[simp] theorem State.push_ph (s : State) (v : Byte) : (s.push v).ph = s.ph := rfl
@[simp] theorem State.push_opl (s : State) (v : Byte) : (s.push v).opl = s.opl := rfl
@[simp] theorem State.push_ctrlOp (s : State) (v : Byte) : (s.push v).ctrlOp = s.ctrlOp := rfl
@[simp] theorem State.push_stopr (s : State) (v : Byte) : (s.push v).stopr = s.stopr := rfl
@[simp] theorem State.push_sigok (s : State) (v : Byte) : (s.push v).sigok = s.sigok := rfl
@[simp] theorem State.push_ovr (s : State) (v : Byte) : (s.push v).ovr = s.ovr := rfl
@[simp] theorem State.push_ilen (s : State) (v : Byte) : (s.push v).ilen = s.ilen := rfl
@[simp] theorem State.push_rlen (s : State) (v : Byte) : (s.push v).rlen = s.rlen := rfl
@[simp] theorem State.push_cause (s : State) (v : Byte) : (s.push v).cause = s.cause := rfl
@[simp] theorem State.push_faddr (s : State) (v : Byte) : (s.push v).faddr = s.faddr := rfl
@[simp] theorem State.push_finfo (s : State) (v : Byte) : (s.push v).finfo = s.finfo := rfl
@[simp] theorem State.push_inMem (s : State) (v : Byte) : (s.push v).inMem = s.inMem := rfl
@[simp] theorem State.push_outMem (s : State) (v : Byte) : (s.push v).outMem = Mem.set s.outMem s.olen v := rfl
@[simp] theorem State.push_params (s : State) (v : Byte) : (s.push v).params = s.params := rfl
@[simp] theorem State.push_inputs (s : State) (v : Byte) : (s.push v).inputs = s.inputs := rfl
@[simp] theorem State.push_rdata (s : State) (v : Byte) : (s.push v).rdata = s.rdata := rfl
@[simp] theorem State.push_draws (s : State) (v : Byte) : (s.push v).draws = s.draws := rfl
@[simp] theorem State.push_inGen (s : State) (v : Byte) : (s.push v).inGen = s.inGen := rfl
@[simp] theorem State.push_outGen (s : State) (v : Byte) : (s.push v).outGen = s.outGen := rfl

/-! ### raise -/

@[simp] theorem State.raise_q (s : State) (x : Cause) (a n : Nat) : (s.raise x a n).q = Config.freeQ s.draws := rfl
@[simp] theorem State.raise_cur (s : State) (x : Cause) (a n : Nat) : (s.raise x a n).cur = (Config.freeCur s.draws).toNat := rfl
@[simp] theorem State.raise_olen (s : State) (x : Cause) (a n : Nat) : (s.raise x a n).olen = (Config.freeOlen s.draws).toNat := rfl
@[simp] theorem State.raise_dsize (s : State) (x : Cause) (a n : Nat) : (s.raise x a n).dsize = s.dsize := rfl
@[simp] theorem State.raise_csize (s : State) (x : Cause) (a n : Nat) : (s.raise x a n).csize = s.csize := rfl
@[simp] theorem State.raise_csum (s : State) (x : Cause) (a n : Nat) : (s.raise x a n).csum = s.csum := rfl
@[simp] theorem State.raise_ph (s : State) (x : Cause) (a n : Nat) : (s.raise x a n).ph = .fault := rfl
@[simp] theorem State.raise_opl (s : State) (x : Cause) (a n : Nat) : (s.raise x a n).opl = s.opl := rfl
@[simp] theorem State.raise_ctrlOp (s : State) (x : Cause) (a n : Nat) : (s.raise x a n).ctrlOp = s.ctrlOp := rfl
@[simp] theorem State.raise_stopr (s : State) (x : Cause) (a n : Nat) : (s.raise x a n).stopr = .nothing := rfl
@[simp] theorem State.raise_sigok (s : State) (x : Cause) (a n : Nat) : (s.raise x a n).sigok = s.sigok := rfl
@[simp] theorem State.raise_ovr (s : State) (x : Cause) (a n : Nat) : (s.raise x a n).ovr = false := rfl
@[simp] theorem State.raise_ilen (s : State) (x : Cause) (a n : Nat) : (s.raise x a n).ilen = s.ilen := rfl
@[simp] theorem State.raise_rlen (s : State) (x : Cause) (a n : Nat) : (s.raise x a n).rlen = 0 := rfl
@[simp] theorem State.raise_cause (s : State) (x : Cause) (a n : Nat) : (s.raise x a n).cause = x := rfl
@[simp] theorem State.raise_faddr (s : State) (x : Cause) (a n : Nat) : (s.raise x a n).faddr = a := rfl
@[simp] theorem State.raise_finfo (s : State) (x : Cause) (a n : Nat) : (s.raise x a n).finfo = n := rfl
@[simp] theorem State.raise_inMem (s : State) (x : Cause) (a n : Nat) : (s.raise x a n).inMem = s.inMem := rfl
@[simp] theorem State.raise_outMem (s : State) (x : Cause) (a n : Nat) : (s.raise x a n).outMem = [] := rfl
@[simp] theorem State.raise_params (s : State) (x : Cause) (a n : Nat) : (s.raise x a n).params = s.params := rfl
@[simp] theorem State.raise_inputs (s : State) (x : Cause) (a n : Nat) : (s.raise x a n).inputs = s.inputs := rfl
@[simp] theorem State.raise_rdata (s : State) (x : Cause) (a n : Nat) : (s.raise x a n).rdata = s.rdata := rfl
@[simp] theorem State.raise_draws (s : State) (x : Cause) (a n : Nat) : (s.raise x a n).draws = s.draws + 1 := rfl
@[simp] theorem State.raise_inGen (s : State) (x : Cause) (a n : Nat) : (s.raise x a n).inGen = s.inGen := rfl
@[simp] theorem State.raise_outGen (s : State) (x : Cause) (a n : Nat) : (s.raise x a n).outGen = s.draws := rfl

/-! ### wiped -/

@[simp] theorem State.wiped_q (s : State) (op : OpCode) : (s.wiped op).q = 0 := rfl
@[simp] theorem State.wiped_cur (s : State) (op : OpCode) : (s.wiped op).cur = 0 := rfl
@[simp] theorem State.wiped_olen (s : State) (op : OpCode) : (s.wiped op).olen = 0 := rfl
@[simp] theorem State.wiped_dsize (s : State) (op : OpCode) : (s.wiped op).dsize = 0 := rfl
@[simp] theorem State.wiped_csize (s : State) (op : OpCode) : (s.wiped op).csize = 0 := rfl
@[simp] theorem State.wiped_csum (s : State) (op : OpCode) : (s.wiped op).csum = 0 := rfl
@[simp] theorem State.wiped_ph (s : State) (op : OpCode) : (s.wiped op).ph = s.ph := rfl
@[simp] theorem State.wiped_opl (s : State) (op : OpCode) : (s.wiped op).opl = op := rfl
@[simp] theorem State.wiped_ctrlOp (s : State) (op : OpCode) : (s.wiped op).ctrlOp = op := rfl
@[simp] theorem State.wiped_stopr (s : State) (op : OpCode) : (s.wiped op).stopr = .nothing := rfl
@[simp] theorem State.wiped_sigok (s : State) (op : OpCode) : (s.wiped op).sigok = false := rfl
@[simp] theorem State.wiped_ovr (s : State) (op : OpCode) : (s.wiped op).ovr = false := rfl
@[simp] theorem State.wiped_ilen (s : State) (op : OpCode) : (s.wiped op).ilen = s.ilen := rfl
@[simp] theorem State.wiped_rlen (s : State) (op : OpCode) : (s.wiped op).rlen = 0 := rfl
@[simp] theorem State.wiped_cause (s : State) (op : OpCode) : (s.wiped op).cause = .noFault := rfl
@[simp] theorem State.wiped_faddr (s : State) (op : OpCode) : (s.wiped op).faddr = 0 := rfl
@[simp] theorem State.wiped_finfo (s : State) (op : OpCode) : (s.wiped op).finfo = 0 := rfl
@[simp] theorem State.wiped_inMem (s : State) (op : OpCode) : (s.wiped op).inMem = s.inMem := rfl
@[simp] theorem State.wiped_outMem (s : State) (op : OpCode) : (s.wiped op).outMem = s.outMem := rfl
@[simp] theorem State.wiped_params (s : State) (op : OpCode) : (s.wiped op).params = s.params := rfl
@[simp] theorem State.wiped_inputs (s : State) (op : OpCode) : (s.wiped op).inputs = s.inputs := rfl
@[simp] theorem State.wiped_rdata (s : State) (op : OpCode) : (s.wiped op).rdata = s.rdata := rfl
@[simp] theorem State.wiped_draws (s : State) (op : OpCode) : (s.wiped op).draws = s.draws := rfl
@[simp] theorem State.wiped_inGen (s : State) (op : OpCode) : (s.wiped op).inGen = s.inGen := rfl
@[simp] theorem State.wiped_outGen (s : State) (op : OpCode) : (s.wiped op).outGen = s.outGen := rfl

/-! ### clearResult -/

@[simp] theorem State.clearResult_q (s : State) : (s.clearResult).q = s.q := rfl
@[simp] theorem State.clearResult_cur (s : State) : (s.clearResult).cur = s.cur := rfl
@[simp] theorem State.clearResult_olen (s : State) : (s.clearResult).olen = s.olen := rfl
@[simp] theorem State.clearResult_dsize (s : State) : (s.clearResult).dsize = s.dsize := rfl
@[simp] theorem State.clearResult_csize (s : State) : (s.clearResult).csize = s.csize := rfl
@[simp] theorem State.clearResult_csum (s : State) : (s.clearResult).csum = s.csum := rfl
@[simp] theorem State.clearResult_ph (s : State) : (s.clearResult).ph = .idle := rfl
@[simp] theorem State.clearResult_opl (s : State) : (s.clearResult).opl = s.opl := rfl
@[simp] theorem State.clearResult_ctrlOp (s : State) : (s.clearResult).ctrlOp = s.ctrlOp := rfl
@[simp] theorem State.clearResult_stopr (s : State) : (s.clearResult).stopr = .nothing := rfl
@[simp] theorem State.clearResult_sigok (s : State) : (s.clearResult).sigok = false := rfl
@[simp] theorem State.clearResult_ovr (s : State) : (s.clearResult).ovr = false := rfl
@[simp] theorem State.clearResult_ilen (s : State) : (s.clearResult).ilen = s.ilen := rfl
@[simp] theorem State.clearResult_rlen (s : State) : (s.clearResult).rlen = 0 := rfl
@[simp] theorem State.clearResult_cause (s : State) : (s.clearResult).cause = .noFault := rfl
@[simp] theorem State.clearResult_faddr (s : State) : (s.clearResult).faddr = 0 := rfl
@[simp] theorem State.clearResult_finfo (s : State) : (s.clearResult).finfo = 0 := rfl
@[simp] theorem State.clearResult_inMem (s : State) : (s.clearResult).inMem = s.inMem := rfl
@[simp] theorem State.clearResult_outMem (s : State) : (s.clearResult).outMem = s.outMem := rfl
@[simp] theorem State.clearResult_params (s : State) : (s.clearResult).params = s.params := rfl
@[simp] theorem State.clearResult_inputs (s : State) : (s.clearResult).inputs = s.inputs := rfl
@[simp] theorem State.clearResult_rdata (s : State) : (s.clearResult).rdata = s.rdata := rfl
@[simp] theorem State.clearResult_draws (s : State) : (s.clearResult).draws = s.draws := rfl
@[simp] theorem State.clearResult_inGen (s : State) : (s.clearResult).inGen = s.inGen := rfl
@[simp] theorem State.clearResult_outGen (s : State) : (s.clearResult).outGen = s.outGen := rfl

/-! ### finishWith -/

@[simp] theorem State.finishWith_q (s : State) (n : Nat) : (s.finishWith n).q = s.q := rfl
@[simp] theorem State.finishWith_cur (s : State) (n : Nat) : (s.finishWith n).cur = s.cur := rfl
@[simp] theorem State.finishWith_olen (s : State) (n : Nat) : (s.finishWith n).olen = s.olen := rfl
@[simp] theorem State.finishWith_dsize (s : State) (n : Nat) : (s.finishWith n).dsize = s.dsize := rfl
@[simp] theorem State.finishWith_csize (s : State) (n : Nat) : (s.finishWith n).csize = s.csize := rfl
@[simp] theorem State.finishWith_csum (s : State) (n : Nat) : (s.finishWith n).csum = s.csum := rfl
@[simp] theorem State.finishWith_ph (s : State) (n : Nat) : (s.finishWith n).ph = .done := rfl
@[simp] theorem State.finishWith_opl (s : State) (n : Nat) : (s.finishWith n).opl = s.opl := rfl
@[simp] theorem State.finishWith_ctrlOp (s : State) (n : Nat) : (s.finishWith n).ctrlOp = s.ctrlOp := rfl
@[simp] theorem State.finishWith_stopr (s : State) (n : Nat) : (s.finishWith n).stopr = .endIn := rfl
@[simp] theorem State.finishWith_sigok (s : State) (n : Nat) : (s.finishWith n).sigok = s.sigok := rfl
@[simp] theorem State.finishWith_ovr (s : State) (n : Nat) : (s.finishWith n).ovr = s.ovr := rfl
@[simp] theorem State.finishWith_ilen (s : State) (n : Nat) : (s.finishWith n).ilen = s.ilen := rfl
@[simp] theorem State.finishWith_rlen (s : State) (n : Nat) : (s.finishWith n).rlen = n := rfl
@[simp] theorem State.finishWith_cause (s : State) (n : Nat) : (s.finishWith n).cause = s.cause := rfl
@[simp] theorem State.finishWith_faddr (s : State) (n : Nat) : (s.finishWith n).faddr = s.faddr := rfl
@[simp] theorem State.finishWith_finfo (s : State) (n : Nat) : (s.finishWith n).finfo = s.finfo := rfl
@[simp] theorem State.finishWith_inMem (s : State) (n : Nat) : (s.finishWith n).inMem = s.inMem := rfl
@[simp] theorem State.finishWith_outMem (s : State) (n : Nat) : (s.finishWith n).outMem = s.outMem := rfl
@[simp] theorem State.finishWith_params (s : State) (n : Nat) : (s.finishWith n).params = s.params := rfl
@[simp] theorem State.finishWith_inputs (s : State) (n : Nat) : (s.finishWith n).inputs = s.inputs := rfl
@[simp] theorem State.finishWith_rdata (s : State) (n : Nat) : (s.finishWith n).rdata = s.rdata := rfl
@[simp] theorem State.finishWith_draws (s : State) (n : Nat) : (s.finishWith n).draws = s.draws := rfl
@[simp] theorem State.finishWith_inGen (s : State) (n : Nat) : (s.finishWith n).inGen = s.inGen := rfl
@[simp] theorem State.finishWith_outGen (s : State) (n : Nat) : (s.finishWith n).outGen = s.outGen := rfl

/-! ### parsed -/

@[simp] theorem State.parsed_q (s : State) : (s.parsed).q = 0 := rfl
@[simp] theorem State.parsed_cur (s : State) : (s.parsed).cur = Config.hdrLen := rfl
@[simp] theorem State.parsed_olen (s : State) : (s.parsed).olen = s.olen := rfl
@[simp] theorem State.parsed_dsize (s : State) : (s.parsed).dsize = s.buffer.half 0 := rfl
@[simp] theorem State.parsed_csize (s : State) : (s.parsed).csize = s.buffer.half 3 := rfl
@[simp] theorem State.parsed_csum (s : State) : (s.parsed).csum = headerSum s.buffer := rfl
@[simp] theorem State.parsed_ph (s : State) : (s.parsed).ph = s.ph := rfl
@[simp] theorem State.parsed_opl (s : State) : (s.parsed).opl = s.opl := rfl
@[simp] theorem State.parsed_ctrlOp (s : State) : (s.parsed).ctrlOp = s.ctrlOp := rfl
@[simp] theorem State.parsed_stopr (s : State) : (s.parsed).stopr = s.stopr := rfl
@[simp] theorem State.parsed_sigok (s : State) : (s.parsed).sigok = signatureOk (headerSum s.buffer) := rfl
@[simp] theorem State.parsed_ovr (s : State) : (s.parsed).ovr = s.ovr := rfl
@[simp] theorem State.parsed_ilen (s : State) : (s.parsed).ilen = s.ilen := rfl
@[simp] theorem State.parsed_rlen (s : State) : (s.parsed).rlen = s.rlen := rfl
@[simp] theorem State.parsed_cause (s : State) : (s.parsed).cause = s.cause := rfl
@[simp] theorem State.parsed_faddr (s : State) : (s.parsed).faddr = s.faddr := rfl
@[simp] theorem State.parsed_finfo (s : State) : (s.parsed).finfo = s.finfo := rfl
@[simp] theorem State.parsed_inMem (s : State) : (s.parsed).inMem = s.inMem := rfl
@[simp] theorem State.parsed_outMem (s : State) : (s.parsed).outMem = s.outMem := rfl
@[simp] theorem State.parsed_params (s : State) : (s.parsed).params = s.params := rfl
@[simp] theorem State.parsed_inputs (s : State) : (s.parsed).inputs = s.inputs := rfl
@[simp] theorem State.parsed_rdata (s : State) : (s.parsed).rdata = s.rdata := rfl
@[simp] theorem State.parsed_draws (s : State) : (s.parsed).draws = s.draws := rfl
@[simp] theorem State.parsed_inGen (s : State) : (s.parsed).inGen = s.inGen := rfl
@[simp] theorem State.parsed_outGen (s : State) : (s.parsed).outGen = s.outGen := rfl

/-! ### deliver -/

@[simp] theorem State.deliver_q (s : State) (v : Word) : (s.deliver v).q = s.q := rfl
@[simp] theorem State.deliver_cur (s : State) (v : Word) : (s.deliver v).cur = s.cur := rfl
@[simp] theorem State.deliver_olen (s : State) (v : Word) : (s.deliver v).olen = s.olen := rfl
@[simp] theorem State.deliver_dsize (s : State) (v : Word) : (s.deliver v).dsize = s.dsize := rfl
@[simp] theorem State.deliver_csize (s : State) (v : Word) : (s.deliver v).csize = s.csize := rfl
@[simp] theorem State.deliver_csum (s : State) (v : Word) : (s.deliver v).csum = s.csum := rfl
@[simp] theorem State.deliver_ph (s : State) (v : Word) : (s.deliver v).ph = s.ph := rfl
@[simp] theorem State.deliver_opl (s : State) (v : Word) : (s.deliver v).opl = s.opl := rfl
@[simp] theorem State.deliver_ctrlOp (s : State) (v : Word) : (s.deliver v).ctrlOp = s.ctrlOp := rfl
@[simp] theorem State.deliver_stopr (s : State) (v : Word) : (s.deliver v).stopr = s.stopr := rfl
@[simp] theorem State.deliver_sigok (s : State) (v : Word) : (s.deliver v).sigok = s.sigok := rfl
@[simp] theorem State.deliver_ovr (s : State) (v : Word) : (s.deliver v).ovr = s.ovr := rfl
@[simp] theorem State.deliver_ilen (s : State) (v : Word) : (s.deliver v).ilen = s.ilen := rfl
@[simp] theorem State.deliver_rlen (s : State) (v : Word) : (s.deliver v).rlen = s.rlen := rfl
@[simp] theorem State.deliver_cause (s : State) (v : Word) : (s.deliver v).cause = s.cause := rfl
@[simp] theorem State.deliver_faddr (s : State) (v : Word) : (s.deliver v).faddr = s.faddr := rfl
@[simp] theorem State.deliver_finfo (s : State) (v : Word) : (s.deliver v).finfo = s.finfo := rfl
@[simp] theorem State.deliver_inMem (s : State) (v : Word) : (s.deliver v).inMem = s.inMem := rfl
@[simp] theorem State.deliver_outMem (s : State) (v : Word) : (s.deliver v).outMem = s.outMem := rfl
@[simp] theorem State.deliver_params (s : State) (v : Word) : (s.deliver v).params = s.params := rfl
@[simp] theorem State.deliver_inputs (s : State) (v : Word) : (s.deliver v).inputs = s.inputs := rfl
@[simp] theorem State.deliver_rdata (s : State) (v : Word) : (s.deliver v).rdata = v := rfl
@[simp] theorem State.deliver_draws (s : State) (v : Word) : (s.deliver v).draws = s.draws := rfl
@[simp] theorem State.deliver_inGen (s : State) (v : Word) : (s.deliver v).inGen = s.inGen := rfl
@[simp] theorem State.deliver_outGen (s : State) (v : Word) : (s.deliver v).outGen = s.outGen := rfl

end Sys2Proof.Machine
end

