-- ==== Sys2Proof/Laws/Ops.lean ====
section
/-! SUPPORT. The shared operations: everything each can do, said once. -/

namespace Sys2Proof.Machine

/-! ## Bytes of the memories -/

theorem State.outByte_push (s : State) (v : Byte) (a : Nat) :
    (s.push v).outByte a = if a = s.olen then v else s.outByte a := by
  simp only [State.outByte, State.push_outMem, State.push_outGen, Mem.get_set]
  split <;> rfl

@[simp] theorem State.inByte_push (s : State) (v : Byte) (a : Nat) : (s.push v).inByte a = s.inByte a := rfl

@[simp] theorem State.inByte_raise (s : State) (x : Cause) (m n a : Nat) : (s.raise x m n).inByte a = s.inByte a := rfl

@[simp] theorem State.inByte_withPos (s : State) (p : Pos) (a : Nat) : (s.withPos p).inByte a = s.inByte a := rfl

/-! ## A group of bytes -/

/-- `pushList` changes OUT and OLEN only. -/
theorem State.pushList_eq (vs : List Byte) (s : State) :
    s.pushList vs = { s with outMem := (s.pushList vs).outMem, olen := s.olen + vs.length } := by
  induction vs generalizing s with
  | nil => rfl
  | cons v vs ih =>
    have h := ih (s.push v)
    simp only [State.pushList]
    rw [h]
    simp only [State.push, List.length_cons, Nat.add_assoc, Nat.add_comm 1]

/-- `pushList` leaves every byte outside the group as it was. -/
theorem State.outByte_pushList_other (vs : List Byte) (s : State) (a : Nat)
    (h : a < s.olen ∨ s.olen + vs.length ≤ a) : (s.pushList vs).outByte a = s.outByte a := by
  induction vs generalizing s with
  | nil => rfl
  | cons v vs ih =>
    simp only [List.length_cons] at h
    simp only [State.pushList]
    rw [ih (s.push v) (by simp only [State.push_olen]; omega), State.outByte_push, if_neg (by omega)]

/-- `pushList` lists each byte of the group in order. -/
theorem State.outByte_pushList (vs : List Byte) (s : State) (i : Nat) (h : i < vs.length) :
    (s.pushList vs).outByte (s.olen + i) = vs.getD i 0 := by
  induction vs generalizing s i with
  | nil => simp at h
  | cons v vs ih =>
    simp only [State.pushList]
    cases i with
    | zero =>
      rw [State.outByte_pushList_other vs (s.push v) _ (by simp)]
      simp [State.outByte_push]
    | succ i =>
      have := ih (s.push v) i (by simpa using h)
      simpa [Nat.add_assoc, Nat.add_comm 1 i] using this

/-! ## The copy loop -/

/-- The copy loop changes OUT and OLEN only. -/
theorem State.copyLoop_eq (d n : Nat) (s : State) :
    State.copyLoop d n s = { s with outMem := (State.copyLoop d n s).outMem, olen := s.olen + n } := by
  induction n generalizing s with
  | zero => rfl
  | succ n ih =>
    have h := ih (s.push (s.outByte (s.olen - d)))
    simp only [State.copyLoop]
    rw [h]
    simp only [State.push, Nat.add_assoc, Nat.add_comm 1]

@[simp] theorem State.copyLoop_olen (d n : Nat) (s : State) : (State.copyLoop d n s).olen = s.olen + n := by
  rw [State.copyLoop_eq]

/-- The copy loop leaves every byte outside the bytes it appends as it was. -/
theorem State.outByte_copyLoop_other (d n : Nat) (s : State) (a : Nat) (h : a < s.olen ∨ s.olen + n ≤ a) :
    (State.copyLoop d n s).outByte a = s.outByte a := by
  induction n generalizing s with
  | zero => rfl
  | succ n ih =>
    simp only [State.copyLoop]
    rw [ih _ (by simp only [State.push_olen]; omega), State.outByte_push, if_neg (by omega)]

/-- The copy loop keeps the canonical form of OUT. -/
theorem State.wf_copyLoop (d n : Nat) (s : State) (h : Mem.wf s.outMem = true) :
    Mem.wf (State.copyLoop d n s).outMem = true := by
  induction n generalizing s with
  | zero => exact h
  | succ n ih => exact ih _ (Mem.wf_set _ _ h)

/-- A group of bytes keeps the canonical form of OUT. -/
theorem State.wf_pushList (vs : List Byte) (s : State) (h : Mem.wf s.outMem = true) :
    Mem.wf (s.pushList vs).outMem = true := by
  induction vs generalizing s with
  | nil => exact h
  | cons v vs ih => exact ih _ (Mem.wf_set _ _ h)

/-! ## Rules that may raise -/

@[simp] theorem Raising.outcome_ok (s : State) : (Raising.ok s).outcome = .next s := rfl

@[simp] theorem Raising.outcome_raised (s : State) : (Raising.raised s).outcome = .next s := rfl

@[simp] theorem Raising.andThen_ok (s : State) (f : State → State) : Raising.andThen (.ok s) f = .ok (f s) := rfl

@[simp] theorem Raising.andThen_raised (s : State) (f : State → State) : Raising.andThen (.raised s) f = .raised s := rfl

theorem State.room_ok {s : State} {k : Nat} (h : s.olen + k ≤ s.params.outCap) : s.room k = .ok s := by
  simp only [State.room, gt_iff_lt, Nat.not_lt.mpr h, if_false]

theorem State.room_full {s : State} {k : Nat} (h : s.params.outCap < s.olen + k) :
    s.room k = .raised (s.raise .sizeLimitExceeded s.cur 2) := by
  simp only [State.room, gt_iff_lt, h, if_true]

theorem State.append_ok {s : State} {v : Byte} (h : s.olen < s.params.outCap) : s.append v = .ok (s.push v) := by
  simp only [State.append, State.room_ok (show s.olen + 1 ≤ s.params.outCap by omega), Raising.andThen_ok]

theorem State.append_full {s : State} {v : Byte} (h : s.params.outCap ≤ s.olen) :
    s.append v = .raised (s.raise .sizeLimitExceeded s.cur 2) := by
  simp only [State.append, State.room_full (show s.params.outCap < s.olen + 1 by omega), Raising.andThen_raised]

theorem State.appendList_ok {s : State} {vs : List Byte} (h : s.olen + vs.length ≤ s.params.outCap) :
    s.appendList vs = .ok (s.pushList vs) := by
  simp only [State.appendList, State.room_ok h, Raising.andThen_ok]

theorem State.appendList_full {s : State} {vs : List Byte} (h : s.params.outCap < s.olen + vs.length) :
    s.appendList vs = .raised (s.raise .sizeLimitExceeded s.cur 2) := by
  simp only [State.appendList, State.room_full h, Raising.andThen_raised]

/-- `Copy` either copies, or finds the reference outside the output, or finds no room (R108, R186). -/
theorem State.copy_cases (s : State) (d n : Nat) :
    (d ≤ s.olen ∧ s.olen + n ≤ s.params.outCap ∧ s.copy d n = .ok (State.copyLoop d n s)) ∨
    (s.olen < d ∧ s.copy d n = .raised (s.raise .invalidBackReference s.cur d)) ∨
    (d ≤ s.olen ∧ s.params.outCap < s.olen + n ∧ s.copy d n = .raised (s.raise .sizeLimitExceeded s.cur 2)) := by
  unfold State.copy
  by_cases hd : d > s.olen
  · exact .inr (.inl ⟨hd, by simp [hd]⟩)
  · by_cases hn : s.olen + n ≤ s.params.outCap
    · exact .inl ⟨by omega, hn, by simp [hd, State.room_ok hn]⟩
    · exact .inr (.inr ⟨by omega, by omega, by simp [hd, State.room_full (Nat.lt_of_not_le hn)]⟩)

/-! ## Launch, completion, clear -/

/-- START is ignored, or finds the input too long, or enters the operation's first phase (R140, R150). -/
theorem State.start_cases (s : State) (op : OpCode) :
    (s.busy = true ∧ s.start op = s) ∨
    (s.busy = false ∧ s.params.inCap < s.ilen ∧ s.start op = (s.wiped op).raise .sizeLimitExceeded 0 1) ∨
    (s.busy = false ∧ s.ilen ≤ s.params.inCap ∧ s.start op = { s.wiped op with ph := firstPhase op }) := by
  unfold State.start
  cases hb : s.busy with
  | true => exact .inl ⟨rfl, by simp⟩
  | false =>
    by_cases hl : s.ilen > s.params.inCap
    · exact .inr (.inl ⟨rfl, hl, by simp [hl]⟩)
    · exact .inr (.inr ⟨rfl, by omega, by simp [hl]⟩)

/-- The HSQ finish ends in DONE or in the early-EOF fault (R109). -/
theorem State.hsqFinish_cases (s : State) (r : StopReason) :
    (s.dsize.toNat ≤ s.olen ∧ s.hsqFinish r =
      { s with rlen := s.dsize.toNat, ovr := decide (s.olen > s.dsize.toNat), stopr := r, ph := .done }) ∨
    (s.olen < s.dsize.toNat ∧ s.hsqFinish r = s.raise .formatError s.cur 2) := by
  unfold State.hsqFinish
  by_cases h : s.olen < s.dsize.toNat
  · exact .inr ⟨h, by simp [h]⟩
  · exact .inl ⟨by omega, by simp [h]⟩

/-- The header parse ends in one of three phases (R100). -/
theorem State.hdrStep_cases (s : State) :
    (s.ilen < Config.hdrLen ∧ s.hdrStep = s.raise .formatError 0 1) ∨
    (Config.hdrLen ≤ s.ilen ∧ s.opl = .hsqSizes ∧ s.hdrStep = s.parsed.finishWith 0) ∨
    (Config.hdrLen ≤ s.ilen ∧ s.opl ≠ .hsqSizes ∧ s.hdrStep = { s.parsed with ph := .hsq }) := by
  unfold State.hdrStep
  by_cases h : s.ilen < Config.hdrLen
  · exact .inl ⟨h, by simp [h]⟩
  · by_cases ho : s.opl = .hsqSizes
    · exact .inr (.inl ⟨by omega, ho, by simp [h, ho, State.sizesFinish]⟩)
    · exact .inr (.inr ⟨by omega, ho, by simp [h, ho]⟩)

/-- BUSY is the four phases of a running operation (R17). -/
theorem State.busy_iff (s : State) : s.busy = true ↔ s.ph = .hdr ∨ s.ph = .hsq ∨ s.ph = .f7d ∨ s.ph = .f7e := by
  unfold State.busy
  cases s.ph <;> simp

end Sys2Proof.Machine
end

