-- ==== Sys2Proof/Laws/PerInstr.lean ====
section
/-! SUPPORT. A statement about every instruction, made constructor by constructor: how long a command is (30_encoding.md
R64): 1, 2 or 4 control bits and at most 3 raw bytes, and nothing where there is no control bit. -/

namespace Sys2Proof.Laws.CommandSize

/-- The size R64 gives a command; an instruction that is no HSQ command has neither bits nor raw bytes. -/
def Statement (i : Instr) : Prop :=
  (i.bits.length = 0 ∧ i.raw = []) ∨
  ((i.bits.length = 1 ∨ i.bits.length = 2 ∨ i.bits.length = 4) ∧ i.raw.length ≤ 3)

theorem lit (b : Byte) : Statement (.lit b) := .inr ⟨.inl rfl, Nat.le_of_ble_eq_true rfl⟩

theorem litStop : Statement .litStop := .inr ⟨.inl rfl, Nat.le_of_ble_eq_true rfl⟩

theorem long (field : BitVec 13) (count : BitVec 3) : Statement (.long field count) := .inr ⟨.inr (.inl rfl), Nat.le_of_ble_eq_true rfl⟩

theorem longx (field : BitVec 13) (extra : Byte) : Statement (.longx field extra) := .inr ⟨.inr (.inl rfl), Nat.le_of_ble_eq_true rfl⟩

theorem eof (field : BitVec 13) : Statement (.eof field) := .inr ⟨.inr (.inl rfl), Nat.le_of_ble_eq_true rfl⟩

theorem short (count : BitVec 2) (b : Byte) : Statement (.short count b) := .inr ⟨.inr (.inr rfl), Nat.le_of_ble_eq_true rfl⟩

theorem esc : Statement .esc := .inl ⟨rfl, rfl⟩

theorem run (nn vv : Byte) : Statement (.run nn vv) := .inl ⟨rfl, rfl⟩

theorem byte (b : Byte) : Statement (.byte b) := .inl ⟨rfl, rfl⟩

theorem tail (b : Byte) : Statement (.tail b) := .inl ⟨rfl, rfl⟩

theorem erun (r v : Byte) : Statement (.erun r v) := .inl ⟨rfl, rfl⟩

theorem eesc : Statement .eesc := .inl ⟨rfl, rfl⟩

theorem ebyte (v : Byte) : Statement (.ebyte v) := .inl ⟨rfl, rfl⟩

theorem hsqDec : Statement .hsqDec := .inl ⟨rfl, rfl⟩

theorem hsqSizes : Statement .hsqSizes := .inl ⟨rfl, rfl⟩

theorem f7Dec : Statement .f7Dec := .inl ⟨rfl, rfl⟩

theorem f7Enc : Statement .f7Enc := .inl ⟨rfl, rfl⟩

theorem clear (op : OpCode) : Statement (.clear op) := .inl ⟨rfl, rfl⟩

end Sys2Proof.Laws.CommandSize
end

