-- ==== Sys2Proof/Laws/Reader.lean ====
section
/-! SUPPORT. The Bit Reader: everything each primitive can do; and the end of the Bit Writer. -/

namespace Sys2Proof

/-- A `GetBit` either takes the queue's low bit, or refills, or fails (R90). -/
theorem getBit_cases (d : Buffer) (p : Pos) :
    (p.q >>> 1 ≠ 0 ∧ getBit d p = .ok (p.q.getLsbD 0, { cur := p.cur, q := p.q >>> 1 })) ∨
    (p.q >>> 1 = 0 ∧ p.cur + 2 ≤ d.len ∧
      getBit d p = .ok ((d.half p.cur).getLsbD 0, { cur := p.cur + 2, q := refillQ (d.half p.cur) })) ∨
    (p.q >>> 1 = 0 ∧ d.len < p.cur + 2 ∧ getBit d p = .error { addr := p.cur, need := 2 }) := by
  unfold getBit
  by_cases hq : p.q >>> 1 = 0
  · by_cases hl : p.cur + 2 > d.len
    · exact .inr (.inr ⟨hq, hl, by rw [if_pos hq, if_pos hl]⟩)
    · exact .inr (.inl ⟨hq, by omega, by rw [if_pos hq, if_neg hl]⟩)
  · exact .inl ⟨hq, by rw [if_neg hq]⟩

theorem readByte_ok {d : Buffer} {p : Pos} (h : p.cur + 1 ≤ d.len) :
    readByte d p = .ok (d.byte p.cur, { p with cur := p.cur + 1 }) := by
  simp [readByte, Nat.not_lt.mpr h]

theorem readByte_error {d : Buffer} {p : Pos} (h : d.len < p.cur + 1) :
    readByte d p = .error { addr := p.cur, need := 1 } := by
  simp only [readByte, gt_iff_lt, h, if_true]

theorem readWord_ok {d : Buffer} {p : Pos} (h : p.cur + 2 ≤ d.len) :
    readWord d p = .ok (d.half p.cur, { p with cur := p.cur + 2 }) := by
  simp [readWord, Nat.not_lt.mpr h]

theorem readWord_error {d : Buffer} {p : Pos} (h : d.len < p.cur + 2) :
    readWord d p = .error { addr := p.cur, need := 2 } := by
  simp only [readWord, gt_iff_lt, h, if_true]

/-- A successful `GetBit` moves the cursor by 0 or 2 and stays within the buffer. -/
theorem getBit_cursor {d : Buffer} {p p' : Pos} {b : Bool} (h : getBit d p = .ok (b, p')) (hp : p.cur ≤ d.len) :
    p.cur ≤ p'.cur ∧ p'.cur ≤ d.len := by
  rcases getBit_cases d p with ⟨-, e⟩ | ⟨-, hl, e⟩ | ⟨-, -, e⟩
  · rw [e] at h; cases h; exact ⟨Nat.le_refl _, hp⟩
  · rw [e] at h; cases h; exact ⟨Nat.le_add_right _ _, hl⟩
  · rw [e] at h; cases h

/-- A successful `ReadByte` consumes one byte of the buffer. -/
theorem readByte_cursor {d : Buffer} {p p' : Pos} {b : Byte} (h : readByte d p = .ok (b, p')) :
    p'.cur = p.cur + 1 ∧ p'.q = p.q ∧ p'.cur ≤ d.len ∧ b = d.byte p.cur := by
  unfold readByte at h
  split at h
  · cases h
  · cases h; exact ⟨rfl, rfl, by simp only; omega, rfl⟩

/-- A successful `ReadWord` consumes two bytes of the buffer. -/
theorem readWord_cursor {d : Buffer} {p p' : Pos} {w : Half} (h : readWord d p = .ok (w, p')) :
    p'.cur = p.cur + 2 ∧ p'.q = p.q ∧ p'.cur ≤ d.len ∧ w = d.half p.cur := by
  unfold readWord at h
  split at h
  · cases h
  · cases h; exact ⟨rfl, rfl, by simp only; omega, rfl⟩

/-- `finish()` leaves no slot open and returns the bytes the writer is left with (R164). -/
theorem Writer.finish_closes (w : Writer) : w.finish.2.slot = none ∧ w.finish.1 = w.finish.2.buf := by
  refine ⟨?_, rfl⟩
  unfold Writer.finish Writer.closed
  cases h : w.slot with
  | none => exact h
  | some a => rfl

/-- `finish()` with no slot open changes nothing (R164). -/
theorem Writer.finish_of_no_slot {w : Writer} (h : w.slot = none) : w.finish = (w.buf, w) := by
  simp only [Writer.finish, Writer.closed, h]

/-- A file that fits the field has its length in it (R166). -/
theorem compressedSize_of_fits {n : Nat} (h : 6 + n ≤ 65535) : (compressedSize n).toNat = 6 + n := by
  rw [compressedSize, if_pos h, BitVec.toNat_ofNat]
  exact Nat.mod_eq_of_lt (by omega)

end Sys2Proof
end

