-- ==== Sys2Proof/Laws/Step.lean ====
section
/-! SUPPORT. What a step is, by what `fetch` says. -/

namespace Sys2Proof.Machine

theorem step_of_run {s t : State} {i : Instr} (h : fetch s = .run i t) : step s = exec i t := by
  simp only [step, h]

theorem step_of_moved {s t : State} (h : fetch s = .moved t) : step s = .next t := by
  simp only [step, h]

theorem step_of_stop {s : State} {f : Fault} (h : fetch s = .stop f) : step s = .fault f := by
  simp only [step, h]

theorem fetch_nil {s : State} (h : s.inputs = []) : fetch s = engineTurn s := by
  simp only [fetch, h]

theorem fetch_cons {s : State} {e : Input} {rest : List Input} (h : s.inputs = e :: rest) :
    fetch s = hostTurn { s with inputs := rest } e := by
  simp only [fetch, h]

/-- STATE is BUSY or settled, never both (R17). -/
theorem settled_iff (s : State) : Safety.settled s ↔ s.busy = false := by
  unfold Safety.settled State.busy
  cases s.ph <;> decide

/-- An HSQ step runs the command at its position, or raises TruncatedStream. -/
theorem fetchHsq_cases (s : State) :
    (∃ i p, decodeHsq s.buffer s.full s.pos = .ok (i, p) ∧ fetchHsq s = .run i (s.withPos p)) ∨
    (∃ e, decodeHsq s.buffer s.full s.pos = .error e ∧ fetchHsq s = .moved (s.truncated e)) := by
  unfold fetchHsq
  cases h : decodeHsq s.buffer s.full s.pos with
  | ok r => exact .inl ⟨r.1, r.2, rfl, rfl⟩
  | error e => exact .inr ⟨e, rfl, rfl⟩

/-- Every instruction ends in a next state: none of this table faults or is refused. -/
theorem exec_next (i : Instr) (s : State) : ∃ t, exec i s = .next t := by
  have h : ∀ r : Raising, ∃ t, r.outcome = .next t := fun r => by cases r <;> exact ⟨_, rfl⟩
  cases i <;> first | exact h _ | exact ⟨_, rfl⟩

end Sys2Proof.Machine
end

