-- ==== Sys2Proof/Tests/Slice0.lean ====
section
/-! SUPPORT. Small tests of one step or one decoding, the expected results taken from spec/ (the vectors of
95_test_vectors.md and the worked examples of the rules), and a witness for the hypotheses of each statement. -/

namespace Sys2Proof.Tests

open Sys2Proof.Machine Sys2Proof.Safety

/-! ## Helpers -/

/-- The reset state with an input loaded. -/
def loaded (data : List Byte) : State :=
  { State.reset with ilen := data.length, inMem := Mem.setList [] 0 data }

/-- A running HSQ_DEC at a position, with output so far and a declared size. -/
def hsqAt (data : List Byte) (cur : Nat) (q : Half) (out : List Byte) (dsize : Half) : State :=
  { loaded data with
    ph := .hsq, cur := cur, q := q, dsize := dsize, outMem := Mem.setList [] 0 out, olen := out.length }

/-- A running F7_DEC at a position. -/
def f7dAt (data : List Byte) (cur : Nat) (out : List Byte) : State :=
  { loaded data with ph := .f7d, opl := .f7Dec, cur := cur, outMem := Mem.setList [] 0 out, olen := out.length }

/-- A running F7_ENC at a position. -/
def f7eAt (data : List Byte) (cur : Nat) (out : List Byte) : State :=
  { loaded data with ph := .f7e, opl := .f7Enc, cur := cur, outMem := Mem.setList [] 0 out, olen := out.length }

/-- A next state with a property. -/
def nextIs (o : Host.Outcome State Fault Refusal) (p : State → Bool) : Bool :=
  match o with
  | .next t => p t
  | .fault _ => false
  | .refused _ => false

/-- OUT from an index on. -/
def outIs (t : State) : Nat → List Byte → Bool
  | _, [] => true
  | a, b :: bs => t.outByte a == b && outIs t (a + 1) bs

/-- The fault record of a state in FAULT. -/
def faultIs (t : State) (c : Cause) (addr info : Nat) : Bool :=
  t.ph == .fault && t.cause == c && t.faddr == addr && t.finfo == info && t.rlen == 0

/-- A state's next input. -/
def withInput (s : State) (e : Input) : State := { s with inputs := [e] }

/-- V1, the minimal fixture. -/
def v1 : List Byte := [0x02, 0x00, 0x00, 0x0D, 0x00, 0x9C, 0x0B, 0x00, 0x41, 0x42, 0x00, 0x00, 0x00]

/-! ## Ill-formed terms are refused -/

theorem test_wf_refuses_long_count_0 : (Instr.long 5 0).wf = false := by decide
theorem test_wf_refuses_longx_extra_0 : (Instr.longx 5 0).wf = false := by decide
theorem test_wf_refuses_run_of_2 : (Instr.run 2 0xAA).wf = false := by decide
theorem test_wf_refuses_erun_of_3 : (Instr.erun 3 0xAA).wf = false := by decide
theorem test_wf_refuses_ebyte_control : (Instr.ebyte 0xF7).wf = false := by decide
theorem test_wf_accepts_bounds :
    ((Instr.long 0 1).wf && (Instr.longx 0 1).wf && (Instr.run 3 0).wf && (Instr.erun 4 0).wf) = true := by decide

/-! ## Decoding, words written out from the encodings of 30_encoding.md -/

/-- The answer of the HSQ decoder on a body from a fresh control word. -/
def decodesTo (sp : Space) (l : List Byte) (i : Instr) : Bool :=
  match decode sp l with
  | .ok j => j == i
  | .error _ => false

theorem test_decode_lit : decodesTo (.hsq false) [0x01, 0x00, 0x41] (.lit 0x41) = true := by decide
theorem test_decode_litStop : decodesTo (.hsq true) [0x01, 0x00] .litStop = true := by decide
theorem test_decode_long : decodesTo (.hsq false) [0x02, 0x00, 0xEC, 0xFF] (.long 8189 4) = true := by decide
theorem test_decode_longx : decodesTo (.hsq false) [0x02, 0x00, 0xF0, 0xFF, 0xDD] (.longx 8190 0xDD) = true := by decide
theorem test_decode_eof : decodesTo (.hsq false) [0x02, 0x00, 0xF8, 0xFF, 0x00] (.eof 8191) = true := by decide
theorem test_decode_short_count_high_bit_first :
    decodesTo (.hsq false) [0x04, 0x00, 0xF2] (.short 2 0xF2) = true := by decide
theorem test_decode_esc : decodesTo .f7d [0xF7, 0x01, 0xF7] .esc = true := by decide
theorem test_decode_run : decodesTo .f7d [0xF7, 0xF7, 0x01] (.run 0xF7 0x01) = true := by decide
theorem test_decode_byte_falls_through : decodesTo .f7d [0xF7, 0x01, 0x41] (.byte 0xF7) = true := by decide
theorem test_decode_tail : decodesTo .f7d [0xF7, 0x03] (.tail 0xF7) = true := by decide
theorem test_select_erun : decodesTo .f7e [0xF7, 0xF7, 0xF7, 0xF7, 0x01] (.erun 4 0xF7) = true := by decide
theorem test_select_eesc : decodesTo .f7e [0xF7, 0xF7, 0xF7] .eesc = true := by decide
theorem test_select_ebyte : decodesTo .f7e [0xAA, 0xAA, 0xAA] (.ebyte 0xAA) = true := by decide
theorem test_decode_start_wins : decodesTo .ctrl [0x02, 0x03, 0x00, 0x00] .f7Dec = true := by decide
theorem test_decode_hsqDec : decodesTo .ctrl [0x00, 0x01, 0x00, 0x00] .hsqDec = true := by decide
theorem test_decode_hsqSizes : decodesTo .ctrl [0x01, 0x01, 0x00, 0x00] .hsqSizes = true := by decide
theorem test_decode_f7Enc : decodesTo .ctrl [0x03, 0x01, 0x00, 0x00] .f7Enc = true := by decide
theorem test_decode_clear : decodesTo .ctrl [0x03, 0x02, 0x00, 0x00] (.clear .f7Enc) = true := by decide
theorem test_decode_rejects_op_store : decodesTo .ctrl [0x03, 0x00, 0x00, 0x00] (.clear .f7Enc) = false := by decide

/-- The Bit Writer on the worked example of R165 and on the header of V4. -/
theorem test_assemble_worked_example :
    assemble [.lit 0x41, .short 3 0xFF, asmEof] = [0x59, 0x00, 0x41, 0xFF, 0x00, 0x00, 0x00] := by decide

theorem test_hsqFile_v4 : hsqFile 6 [.lit 0x41, asmShort 1 5, asmEof] =
    [0x06, 0x00, 0x00, 0x0D, 0x00, 0x98, 0x59, 0x00, 0x41, 0xFF, 0x00, 0x00, 0x00] := by decide

theorem test_table_words :
    [decodeTableWord 8 1, decodeTableWord 8 2, decodeTableWord 8 0, decodeTableWord 24 0xF701F7,
      decodeTableWord 24 0xF704AA, decodeTableWord 16 0x100, decodeTableWord 16 0x201] =
    [some (.lit 0), some (.eof 0), some (.short 0 0), some .esc, some (.run 4 0xAA), some .hsqDec,
      some (.clear .hsqSizes)] := by decide

/-! ## The Bit Reader (vectors B1, B4, B8, B9) -/

theorem test_getBit_refill :
    (match getBit (Buffer.ofList [0xC3, 0xA5]) { cur := 0, q := 0 } with
      | .ok (b, p) => b && p.cur == 2 && p.q == 0xD2E1
      | .error _ => false) = true := by decide

theorem test_getBits_second_word :
    (match getBits (Buffer.ofList [0xC3, 0xA5, 0x01, 0x00]) 18 { cur := 0, q := 0 } with
      | .ok (bs, p) => bs == [true, true, false, false, false, false, true, true, true, false, true, false, false, true,
          false, true, true, false] && p.cur == 4 && p.q == 0x4000
      | .error _ => false) = true := by decide

theorem test_getBit_truncated :
    (match getBit (Buffer.ofList [0xC3]) { cur := 0, q := 1 } with
      | .ok _ => false
      | .error e => e == { addr := 0, need := 2 }) = true := by decide

/-! ## HSQ commands, one step each -/

/-- V1, first LIT: CUR 6 -> 9, Q -> 0x8005, OUT[0] = 0x41. -/
theorem test_lit : nextIs (step (hsqAt v1 6 0 [] 2))
    (fun t => t.cur == 9 && t.q == 0x8005 && t.olen == 1 && outIs t 0 [0x41] && t.ph == .hsq) = true := by decide

/-- V17: the literal byte is missing. -/
theorem test_lit_truncated : nextIs (step (hsqAt [0x01, 0x00, 0x00, 0x08, 0x00, 0xA2, 0x01, 0x00] 6 0 [] 1))
    (fun t => faultIs t .truncatedStream 8 1) = true := by decide

/-- V10: the stop test is OLEN >= DSIZE. -/
theorem test_litStop : nextIs (step (hsqAt [3, 0, 0, 0x0A, 0, 0x9E, 0x39, 0, 0x61, 0xFF] 10 0x0801 [0x61, 0x61, 0x61, 0x61] 3))
    (fun t => t.ph == .done && t.stopr == .litFull && t.rlen == 3 && t.ovr && t.cur == 10 && t.q == 0x0400) = true := by
  decide

/-- V5, step 4: distance 3, six bytes, longer than the distance. -/
theorem test_long : nextIs (step (hsqAt
      [9, 0, 0, 0x10, 0, 0x92, 0x57, 0, 0x61, 0x62, 0x63, 0xEC, 0xFF, 0, 0, 0] 11 0x200A [0x61, 0x62, 0x63] 9))
    (fun t => t.cur == 13 && t.q == 0x0802 && t.olen == 9 &&
      outIs t 0 [0x61, 0x62, 0x63, 0x61, 0x62, 0x63, 0x61, 0x62, 0x63]) = true := by decide

/-- V21: distance 2 at OLEN = 1. -/
theorem test_long_invalid : nextIs (step (hsqAt
      [4, 0, 0, 0x0E, 0, 0x99, 0x15, 0, 0x41, 0xF1, 0xFF, 0, 0, 0] 9 0x800A [0x41] 4))
    (fun t => faultIs t .invalidBackReference 11 2) = true := by decide

/-- V7: a redundant extra byte is accepted, seven bytes copied. -/
theorem test_longx : nextIs (step (hsqAt
      [8, 0, 0, 0x0F, 0, 0x94, 0x15, 0, 0x78, 0xF8, 0xFF, 5, 0, 0, 0] 9 0x800A [0x78] 8))
    (fun t => t.cur == 12 && t.olen == 8 && outIs t 0 [0x78, 0x78, 0x78, 0x78, 0x78, 0x78, 0x78, 0x78]) = true := by
  decide

/-- V22: a missing extra byte comes before the invalid distance. -/
theorem test_longx_truncated_first : nextIs (step (hsqAt [4, 0, 0, 0x0A, 0, 0x9D, 2, 0, 0, 0] 6 0 [] 4))
    (fun t => faultIs t .truncatedStream 10 1) = true := by decide

/-- V11: EOF with a wild offset field. -/
theorem test_eof : nextIs (step (hsqAt [1, 0, 0, 0x0C, 0, 0x9E, 5, 0, 0x5A, 0xF8, 0xFF, 0] 9 0x8002 [0x5A] 1))
    (fun t => t.ph == .done && t.stopr == .eof && t.rlen == 1 && !t.ovr && t.cur == 12 && t.q == 0x2000) = true := by
  decide

/-- V13: early EOF. -/
theorem test_eof_early : nextIs (step (hsqAt [5, 0, 0, 0x0C, 0, 0x9A, 5, 0, 0x41, 0, 0, 0] 9 0x8002 [0x41] 5))
    (fun t => faultIs t .formatError 12 2) = true := by decide

/-- P4, step 15: a SHORT whose control bits straddle two control words. -/
theorem test_short_straddles : nextIs (step { hsqAt [] 0 0x0004 [0x30, 0x31, 0x32] 17 with
      ilen := 5, inMem := Mem.setList [] 0 [0x0A, 0x00, 0xFD, 0x00, 0x00] })
    (fun t => t.cur == 3 && t.q == 0x4002 && t.olen == 6 && outIs t 3 [0x30, 0x31, 0x32]) = true := by decide

/-- V33: the fault carries distance 256. -/
theorem test_short_invalid : nextIs (step (hsqAt [2, 0, 0, 0x0C, 0, 0x9D, 0x20, 0, 0, 0, 0, 0] 8 0x8000 [] 2))
    (fun t => faultIs t .invalidBackReference 9 256) = true := by decide

/-! ## F7 elements, one step each -/

/-- D14, first element. -/
theorem test_esc : nextIs (step (f7dAt [0xF7, 0x01, 0xF7, 0x01, 0xF7, 0x01, 0xF7] 0 []))
    (fun t => t.cur == 3 && t.olen == 1 && outIs t 0 [0xF7] && t.ph == .f7d) = true := by decide

/-- D11, second element. -/
theorem test_run : nextIs (step (f7dAt [0x41, 0xF7, 0x05, 0x42, 0x43] 1 [0x41]))
    (fun t => t.cur == 4 && t.olen == 6 && outIs t 0 [0x41, 0x42, 0x42, 0x42, 0x42, 0x42]) = true := by decide

/-- V36 (a): a run of 5 when OUT_CAP = 4. -/
theorem test_run_no_room : nextIs (step { f7dAt [0xF7, 0x05, 0x42] 0 [] with params := { inCap := 16, outCap := 4 } })
    (fun t => faultIs t .sizeLimitExceeded 0 2) = true := by decide

/-- D19, first element. -/
theorem test_byte : nextIs (step (f7dAt [0xF7, 0x02, 0xF7, 0x01, 0xF7] 0 []))
    (fun t => t.cur == 1 && t.olen == 1 && outIs t 0 [0xF7]) = true := by decide

/-- D8, second element. -/
theorem test_tail : nextIs (step (f7dAt [0xF7, 0x01] 1 [0xF7]))
    (fun t => t.cur == 2 && t.olen == 2 && outIs t 0 [0xF7, 0x01]) = true := by decide

/-- P7, step 4: the finish. -/
theorem test_f7d_finish : nextIs (step (f7dAt [0xF7, 0x02, 0xF7, 0x01, 0xF7] 5 [0xF7, 0x02, 0xF7]))
    (fun t => t.ph == .done && t.rlen == 3 && t.status == 0x0E) = true := by decide

/-- P6, step 4. -/
theorem test_erun : nextIs (step (f7eAt [0x41, 0x41, 0x41, 0x42, 0x42, 0x42, 0x42, 0x42, 0xF7, 0x43] 3 [0x41, 0x41, 0x41]))
    (fun t => t.cur == 8 && t.olen == 6 && outIs t 3 [0xF7, 0x05, 0x42]) = true := by decide

/-- V36 (c): the second escape when OUT_CAP = 4. -/
theorem test_eesc_no_room :
    nextIs (step { f7eAt [0xF7, 0xF7] 1 [0xF7, 0x01, 0xF7] with params := { inCap := 16, outCap := 4 } })
    (fun t => faultIs t .sizeLimitExceeded 1 2) = true := by decide

/-- E9, first element. -/
theorem test_eesc : nextIs (step (f7eAt [0xF7, 0xF7] 0 []))
    (fun t => t.cur == 1 && t.olen == 3 && outIs t 0 [0xF7, 0x01, 0xF7]) = true := by decide

/-- P6, step 1: a run of 3 passes through. -/
theorem test_ebyte : nextIs (step (f7eAt [0x41, 0x41, 0x41, 0x42] 0 []))
    (fun t => t.cur == 1 && t.olen == 1 && outIs t 0 [0x41]) = true := by decide

/-! ## Host operations and accesses -/

/-- The state of vector H5: V1 decoded. -/
def h5 : State :=
  { hsqAt v1 13 0x1000 [0x41, 0x42] 2 with
    csize := 13, csum := 0xAB, sigok := true, ph := .done, stopr := .eof, rlen := 2 }

/-- START of HSQ_DEC wipes the fault record (H9). -/
theorem test_hsqDec : nextIs (step (withInput ((loaded v1).raise .formatError 12 2) (.writeReg 0 0x100)))
    (fun t => t.ph == .hdr && t.opl == .hsqDec && t.cause == .noFault && t.faddr == 0 && t.cur == 0 && t.q == 0) = true := by
  decide

/-- H2: HSQ_SIZES launched; the header step then completes it. -/
theorem test_hsqSizes : nextIs (step (withInput (loaded [0x02, 0x00, 0x00, 0x08, 0x00, 0xA1]) (.writeReg 0 0x101)))
    (fun t => t.ph == .hdr && t.opl == .hsqSizes && t.ctrl == 1 &&
      nextIs (step t) (fun u => u.status == 0x1E && u.dsize == 2 && u.csize == 8 && u.csum == 0xAB && u.cur == 6)) = true := by
  decide

/-- H12: START wins over CLEAR. -/
theorem test_f7Dec : nextIs (step (withInput h5 (.writeReg 0 0x302)))
    (fun t => t.ph == .f7d && t.opl == .f7Dec && t.dsize == 0 && !t.sigok) = true := by decide

/-- V35: ILEN one above IN_CAP. -/
theorem test_f7Enc_oversize : nextIs (step (withInput { State.reset with ilen := 65536 } (.writeReg 0 0x103)))
    (fun t => faultIs t .sizeLimitExceeded 0 1 && t.status == 3) = true := by decide

theorem test_f7Enc : nextIs (step (withInput { State.reset with ilen := 65535 } (.writeReg 0 0x103)))
    (fun t => t.ph == .f7e && t.opl == .f7Enc && t.cur == 0) = true := by decide

/-- H6: CLEAR after H5. -/
theorem test_clear : nextIs (step (withInput h5 (.writeReg 0 0x200)))
    (fun t => t.status == 0 && t.rlen == 0 && t.dsize == 2 && t.csum == 0xAB && t.cur == 13 && t.q == 0x1000) = true := by
  decide

/-- H14: OP is stored and nothing is launched; H13 with H18: a CLEAR in IDLE stores OP too. -/
theorem test_op_store : nextIs (step (withInput State.reset (.writeReg 0 0x003)))
    (fun t => t.ctrl == 3 && t.ph == .idle) = true := by decide

theorem test_clear_in_idle : nextIs (step (withInput State.reset (.writeReg 0 0x203)))
    (fun t => t.ctrl == 3 && t.ph == .idle) = true := by decide

/-- H11: STATUS while BUSY. -/
theorem test_status_while_busy : nextIs (step (withInput (hsqAt v1 6 0 [] 2) (.readReg 4)))
    (fun t => t.rdata == 1 && t.cur == 6) = true := by decide

/-- H5: reading the result. -/
theorem test_read_result : nextIs (step (withInput h5 (.readOut 1))) (fun t => t.rdata == 0x42) = true := by decide

/-- There is no register at 0x34. -/
theorem test_no_such_register :
    (match step (withInput h5 (.readReg 0x34)) with
      | .fault .noSuchRegister => true
      | _ => false) = true := by decide

/-- The header step of V26: a wrong checksum is no fault. -/
theorem test_header_wrong_checksum : nextIs (step { loaded [2, 0, 0, 0x0D, 0, 0, 0x0B, 0, 0x41, 0x42, 0, 0, 0] with ph := .hdr })
    (fun t => t.ph == .hsq && t.dsize == 2 && t.csize == 13 && t.csum == 0x0F && !t.sigok && t.cur == 6) = true := by decide

/-- A placed word is what the next step runs. -/
theorem test_withFetchWord_lit : nextIs (step (State.reset.withFetchWord 8 1))
    (fun t => t.olen == 1 && t.cur == 9 && outIs t 0 [0]) = true := by decide

theorem test_withFetchWord_run : nextIs (step (State.reset.withFetchWord 24 0xF704AA))
    (fun t => t.cur == 3 && outIs t 0 [0xAA, 0xAA, 0xAA, 0xAA]) = true := by decide

theorem test_withFetchWord_start : nextIs (step (State.reset.withFetchWord 16 0x102))
    (fun t => t.ph == .f7d) = true := by decide

/-- The worked example of R166. -/
theorem test_header_of_R166 : headerOf 2 7 = [0x02, 0x00, 0x00, 0x0D, 0x00, 0x9C] := by decide

/-- R164: an open slot is patched low byte first and closed; with none open nothing is added. -/
theorem test_finish_closes_the_slot :
    ({ buf := [0, 0, 0x41], slot := some 0, acc := 0x0102, nbits := 9 } : Writer).finish =
      ([0x02, 0x01, 0x41], { buf := [0x02, 0x01, 0x41], slot := none, acc := 0x0102, nbits := 9 }) ∧
    ({ buf := [0x41], slot := none, acc := 0x0102, nbits := 16 } : Writer).finish.1 = [0x41] := by decide

/-! ## Witnesses: for each statement, states and operands that meet the hypotheses of each of its clauses -/

/-- V1 in the middle of its run. -/
def running : State := hsqAt v1 9 0x8005 [0x41] 2

/-- The engine with the smallest output memory of V36. -/
def small (s : State) : State := { s with params := { inCap := 16, outCap := 4 } }

/-- V35: an oversize START pending. -/
def oversize : State := withInput { State.reset with ilen := 65536 } (.writeReg 0 0x100)

theorem witness_invariant_running : EngineInv running ∧ Growth running := by
  refine ⟨?_, by unfold Growth; decide⟩
  constructor <;> decide

theorem witness_invariant_oversize : EngineInv oversize ∧ Growth oversize := by
  refine ⟨?_, by unfold Growth; decide⟩
  constructor <;> decide

theorem witness_ResetClearsTheEngine : (withInput running .reset).inputs = .reset :: [] := rfl

theorem witness_StepKeepsTheInvariant : ∃ t, EngineInv running ∧ step running = .next t :=
  ⟨_, witness_invariant_running.1, rfl⟩

theorem witness_StepKeepsOutputGrowthBounded : ∃ t, EngineInv running ∧ Growth running ∧ step running = .next t :=
  ⟨_, witness_invariant_running.1, witness_invariant_running.2, rfl⟩

theorem witness_DefaultOutputCapacityNeverExceeded :
    ∃ t, EngineInv oversize ∧ Growth oversize ∧ 257 * oversize.params.inCap ≤ oversize.params.outCap ∧
      step oversize = .next t ∧ oversize.ph ≠ .fault ∧ t.ph = .fault ∧ t.cause = .sizeLimitExceeded :=
  ⟨_, witness_invariant_oversize.1, witness_invariant_oversize.2, by decide, rfl, by decide, rfl, rfl⟩

/-- Each clause's event, with a step that takes each way out of it. -/
theorem witness_PhaseFollowsTheTransitionTable :
    (engineMoves h5 ∧ settled h5) ∧
    (engineMoves { loaded v1 with ph := .hdr } ∧ ({ loaded v1 with ph := .hdr } : State).ph = .hdr) ∧
    (engineMoves running ∧ running.ph = .hsq ∧ running.full = false) ∧
    (engineMoves (f7dAt [0x41] 1 [0x41]) ∧ (f7dAt [0x41] 1 [0x41]).ilen ≤ (f7dAt [0x41] 1 [0x41]).cur) ∧
    (engineMoves (f7eAt [0x41] 0 []) ∧ ¬ (f7eAt [0x41] 0 []).ilen ≤ (f7eAt [0x41] 0 []).cur) ∧
    (withInput running .reset).inputs = .reset :: [] ∧
    ((withInput running (.writeReg 0x00 0x102)).inputs = .writeReg 0x00 0x102 :: [] ∧ ¬ settled running) ∧
    (settled oversize ∧ oversize.inputs = .writeReg 0x00 0x100 :: [] ∧ (0x100 : Word).getLsbD 8 = true) ∧
    (settled h5 ∧ (withInput h5 (.writeReg 0x00 0x200)).inputs = .writeReg 0x00 0x200 :: [] ∧
      (0x200 : Word).getLsbD 8 = false) ∧
    (∃ t, (withInput h5 (.writeReg 0x08 7)).inputs = .writeReg 0x08 7 :: [] ∧ (∀ v, Input.writeReg 0x08 7 ≠ .writeReg 0x00 v) ∧
      step (withInput h5 (.writeReg 0x08 7)) = .next t) :=
  ⟨⟨.inl rfl, .inr (.inl rfl)⟩, ⟨.inl rfl, rfl⟩, ⟨.inl rfl, rfl, rfl⟩, ⟨.inl rfl, by decide⟩, ⟨.inl rfl, by decide⟩, rfl,
    ⟨rfl, by unfold settled; decide⟩, ⟨.inl rfl, rfl, by decide⟩, ⟨.inr (.inl rfl), rfl, by decide⟩,
    _, rfl, fun v h => (by decide : (0x08 : Nat) ≠ 0x00) (Input.writeReg.inj h).1, rfl⟩

theorem witness_StepRunsTheDecodedInstruction :
    (running.inputs = [] ∧ running.ph = .hsq ∧
      decodeHsq running.buffer (decide (running.olen ≥ running.dsize.toNat)) { cur := running.cur, q := running.q } =
        .ok (.lit 0x42, { cur := 10, q := 0x4002 })) ∧
    ((f7dAt [0xF7, 1, 0xF7] 0 []).inputs = [] ∧ (f7dAt [0xF7, 1, 0xF7] 0 []).ph = .f7d ∧
      decodeF7 (f7dAt [0xF7, 1, 0xF7] 0 []).buffer (f7dAt [0xF7, 1, 0xF7] 0 []).cur = some .esc) ∧
    ((f7eAt [0xF7] 0 []).inputs = [] ∧ (f7eAt [0xF7] 0 []).ph = .f7e ∧
      selectF7 (f7eAt [0xF7] 0 []).buffer (f7eAt [0xF7] 0 []).cur = some .eesc) ∧
    ((withInput h5 (.writeReg 0 0x302)).inputs = .writeReg 0 0x302 :: [] ∧ decodeCtrl 0x302 = some .f7Dec) :=
  ⟨⟨rfl, rfl, rfl⟩, ⟨rfl, rfl, rfl⟩, ⟨rfl, rfl, rfl⟩, rfl, rfl⟩

/-- V17 in phase HSQ: the literal's byte is missing. -/
def cutShort : State := hsqAt [0x01, 0x00, 0x00, 0x08, 0x00, 0xA2, 0x01, 0x00] 6 0 [] 1

theorem witness_TruncatedReadsRaise :
    engineMoves cutShort ∧ cutShort.ph = .hsq ∧
      decodeHsq cutShort.buffer cutShort.full cutShort.pos = .error { addr := 8, need := 1 } :=
  ⟨.inl rfl, rfl, rfl⟩

theorem witness_CommandFaultsComeInOrder : running.inputs = [] ∧ running.ph = .hsq := ⟨rfl, rfl⟩

theorem witness_GetBitRefillArithmetic :
    (({ cur := 0, q := 2 } : Pos).q.toNat / 2 ≠ 0) ∧
    (({ cur := 0, q := 1 } : Pos).q.toNat / 2 = 0 ∧ 0 + 2 ≤ (Buffer.ofList [0xC3, 0xA5]).len) ∧
    (({ cur := 0, q := 1 } : Pos).q.toNat / 2 = 0 ∧ (Buffer.ofList [0xC3]).len < 0 + 2) := by decide

theorem witness_RefillDeliversSixteenBits :
    (({ cur := 0, q := 1 } : Pos).q >>> 1 = 0 ∧ 0 + 4 ≤ (Buffer.ofList [0xC3, 0xA5, 1, 0]).len) ∧
    getBit (Buffer.ofList [0xC3, 0xA5]) { cur := 0, q := 2 } = .ok (false, { cur := 0, q := 1 }) :=
  ⟨by decide, rfl⟩

theorem witness_RawReadsAtTheCursor :
    (10 + 1 ≤ 11) ∧ (11 < 11 + 1) ∧ (8 + 2 ≤ 11) ∧ (11 < 10 + 2) := by decide

theorem witness_HsqDecodeInvertsEncode :
    (Instr.lit 0xFF).wf = true ∧ hsqMeets false (.lit 0xFF) = true ∧ hsqMeets true .litStop = true ∧
    (Instr.long 0 7).wf = true ∧ (Instr.longx 8191 255).wf = true ∧ hsqMeets true (.longx 8191 255) = true := by decide

theorem witness_EveryHsqPatternIsACommand : 0 + 5 ≤ (Buffer.ofList [2, 0, 0, 0, 0]).len := by decide

theorem witness_F7DecodeInvertsEncode :
    (Instr.run 3 0xF7).wf = true ∧
    (((0xF7 : Byte) ≠ 0xF7) ∨ ((0x02 : Byte).toNat ≤ 2 ∧ ¬((0x02 : Byte) = 0x01 ∧ (0xF7 : Byte) = 0xF7))) ∧
    (((0xF7 : Byte) ≠ 0xF7) ∨ ((0x01 : Byte).toNat ≤ 2 ∧ ¬((0x01 : Byte) = 0x01 ∧ (0x41 : Byte) = 0xF7))) ∧
    ([0x01] : List Byte).length ≤ 1 := by decide

theorem witness_F7SelectionReadsTheRun :
    ((Instr.erun 4 0xF7).wf = true ∧ ([0x01] : List Byte).head? ≠ some 0xF7) ∧
    ((Instr.erun 255 0xAA).wf = true ∧ (255 : Byte) = 255) ∧
    (1 ≤ 3 ∧ 3 ≤ 3 ∧ ([] : List Byte).head? ≠ some 0xF7) ∧
    ((Instr.ebyte 0xAA).wf = true ∧ ([0xAB] : List Byte).head? ≠ some 0xAA) := by decide

theorem witness_CtrlWriteMeansItsFields :
    ((0x302 : Word).getLsbD 8 = true ∧ (0x302 : Word).setWidth 2 = OpCode.f7Dec.bits) ∧
    ((0x203 : Word).getLsbD 8 = false ∧ (0x203 : Word).getLsbD 9 = true ∧ (0x203 : Word).setWidth 2 = OpCode.f7Enc.bits) ∧
    ((0x003 : Word).getLsbD 8 = false ∧ (0x003 : Word).getLsbD 9 = false ∧ (0x003 : Word).setWidth 2 = OpCode.f7Enc.bits ∧
      (withInput h5 (.writeReg 0x00 0x003)).inputs = .writeReg 0x00 0x003 :: []) := by decide

theorem witness_AssemblerFormsReachTheirDistance :
    (1 ≤ 256 ∧ 256 ≤ 256 ∧ 2 ≤ 5 ∧ 5 ≤ 5) ∧ (1 ≤ 8192 ∧ 8192 ≤ 8192 ∧ 3 ≤ 9 ∧ 9 ≤ 9) ∧ (3 ≤ 257 ∧ 257 ≤ 257) := by
  decide

/-- The state the mirror law starts from, for one LIT and one overlapping SHORT (P1). -/
def assembled : State := loaded (hsqFile 6 ([.lit 0x41, asmShort 1 5] ++ [asmEof]))

theorem witness_DecoderMirrorsTheBitWriter :
    ready assembled ∧ (∀ i ∈ [Instr.lit 0x41, asmShort 1 5], i.wf = true) ∧
    produce [] [.lit 0x41, asmShort 1 5] = some [0x41, 0x41, 0x41, 0x41, 0x41, 0x41] ∧
    ([0x41, 0x41, 0x41, 0x41, 0x41, 0x41] : List Byte).length ≤ 65535 ∧
    ([0x41, 0x41, 0x41, 0x41, 0x41, 0x41] : List Byte).length ≤ assembled.params.outCap ∧
    holds assembled (hsqFile 6 ([.lit 0x41, asmShort 1 5] ++ [asmEof])) := by
  refine ⟨⟨rfl, rfl, by decide⟩, by decide, by decide, by decide, by decide, rfl, by decide⟩

theorem witness_LiteralAppendsItsByte :
    (running.olen < running.params.outCap) ∧
    ((small (hsqAt v1 6 0 [1, 2, 3, 4] 9)).params.outCap ≤ (small (hsqAt v1 6 0 [1, 2, 3, 4] 9)).olen) ∧
    (running.inputs = [] ∧ running.ph = .hsq ∧
      getBit running.buffer running.pos = .ok (true, { cur := 9, q := 0x4002 }) ∧
      running.olen < running.dsize.toNat ∧ 9 < running.ilen) ∧
    (cutShort.inputs = [] ∧ cutShort.ph = .hsq ∧
      getBit cutShort.buffer cutShort.pos = .ok (true, { cur := 8, q := 0x8000 }) ∧
      cutShort.olen < cutShort.dsize.toNat ∧ cutShort.ilen ≤ 8) :=
  ⟨by decide, by decide, ⟨rfl, rfl, rfl, by decide, by decide⟩, rfl, rfl, rfl, by decide, by decide⟩

/-- V8 at its stop bit: OLEN = DSIZE. -/
def atStop : State := hsqAt [2, 0, 0, 0x0A, 0, 0x9F, 7, 0, 0x41, 0x42] 10 0x4001 [0x41, 0x42] 2

theorem witness_LiteralAtFullOutputStops :
    atStop.dsize.toNat ≤ atStop.olen ∧ atStop.inputs = [] ∧ atStop.ph = .hsq ∧
      getBit atStop.buffer atStop.pos = .ok (true, { cur := 10, q := 0x2000 }) :=
  ⟨by decide, rfl, rfl, rfl⟩

theorem witness_BackReferencesCopyByteByByte :
    (8192 - (8191 : BitVec 13).toNat ≤ running.olen ∧
      running.olen + ((7 : BitVec 3).toNat + 2) ≤ running.params.outCap) ∧
    (running.olen + ((255 : Byte).toNat + 2) ≤ running.params.outCap) ∧
    (256 - (255 : Byte).toNat ≤ running.olen ∧ running.olen + ((3 : BitVec 2).toNat + 2) ≤ running.params.outCap) ∧
    (running.olen < distance (.longx 0 1)) ∧
    (0 < distance (.short 3 255) ∧ distance (.short 3 255) ≤ (small (hsqAt v1 6 0 [1, 2, 3] 9)).olen ∧
      (small (hsqAt v1 6 0 [1, 2, 3] 9)).params.outCap < (small (hsqAt v1 6 0 [1, 2, 3] 9)).olen + produced (.short 3 255)) := by
  decide

theorem witness_OverlappingCopyRepeatsItsPeriod :
    1 ≤ 1 ∧ 1 ≤ running.olen ∧ running.olen + 257 ≤ running.params.outCap := by decide

theorem witness_InvalidBackReferenceIsRaised :
    (appends (.short 0 0) = true ∧ running.olen < distance (.short 0 0)) ∧
    (appends (.long 8190 1) = true ∧ running.olen < distance (.long 8190 1)) ∧
    (∃ t, exec (.eof 0) running = .next t ∧ t.ph = .fault) :=
  ⟨by decide, by decide, _, rfl, rfl⟩

theorem witness_HsqFinishReturnsExactlyDsizeBytes :
    atStop.dsize.toNat ≤ atStop.olen ∧ running.olen < running.dsize.toNat := by decide

theorem witness_OverrunNeverReachesTheResult :
    ∃ t, engineMoves atStop ∧ atStop.ph = .hsq ∧ atStop.dsize.toNat ≤ atStop.olen ∧ step atStop = .next t ∧
      t.ph ≠ .fault :=
  ⟨_, .inl rfl, rfl, by decide, rfl, by decide⟩

theorem witness_LoopStepsMoveTheCursor :
    ∃ t, engineMoves running ∧ running.ph = .hsq ∧ step running = .next t ∧ t.ph = running.ph :=
  ⟨_, .inl rfl, rfl, rfl, rfl⟩

theorem witness_F7DecoderElementsAppend :
    ((small (f7dAt [0x41] 0 [1, 2, 3])).olen < (small (f7dAt [0x41] 0 [1, 2, 3])).params.outCap) ∧
    ((small (f7dAt [0xF7, 3, 1] 0 [1])).olen + (3 : Byte).toNat ≤ (small (f7dAt [0xF7, 3, 1] 0 [1])).params.outCap) ∧
    ((small (f7dAt [0xF7, 3, 1] 0 [1, 2])).params.outCap <
      (small (f7dAt [0xF7, 3, 1] 0 [1, 2])).olen + produced (.run 3 1)) := by decide

theorem witness_F7DecoderSelectsByItsWindow :
    (f7dAt [0xF7, 1, 0xF7] 0 []).inputs = [] ∧ (f7dAt [0xF7, 1, 0xF7] 0 []).ph = .f7d ∧
    (f7dAt [0xF7, 1, 0xF7] 0 []).cur ≤ (f7dAt [0xF7, 1, 0xF7] 0 []).ilen := by decide

theorem witness_F7EncoderElementsAppend :
    ((small (f7eAt [0xF7] 0 [1])).olen + 3 ≤ (small (f7eAt [0xF7] 0 [1])).params.outCap) ∧
    ((small (f7eAt [0x41] 0 [1, 2, 3])).olen < (small (f7eAt [0x41] 0 [1, 2, 3])).params.outCap) ∧
    ((small (f7eAt [0xF7] 0 [1, 2])).params.outCap < (small (f7eAt [0xF7] 0 [1, 2])).olen + produced .eesc) := by decide

theorem witness_F7EncoderSelectsByTheRunMeasure :
    ((f7eAt [0x41] 1 [0x41]).inputs = [] ∧ (f7eAt [0x41] 1 [0x41]).ph = .f7e ∧
      (f7eAt [0x41] 1 [0x41]).cur = (f7eAt [0x41] 1 [0x41]).ilen) ∧
    ((f7eAt [0x41] 0 []).inputs = [] ∧ (f7eAt [0x41] 0 []).ph = .f7e ∧
      (f7eAt [0x41] 0 []).cur < (f7eAt [0x41] 0 []).ilen) := by decide

theorem witness_F7OperationsFaultOnlyOnCapacity :
    ∃ t, engineMoves (small (f7dAt [0xF7, 5, 0x42] 0 [])) ∧ (small (f7dAt [0xF7, 5, 0x42] 0 [])).ph = .f7d ∧
      step (small (f7dAt [0xF7, 5, 0x42] 0 [])) = .next t ∧ t.ph = .fault :=
  ⟨_, .inl rfl, rfl, rfl, rfl⟩

theorem witness_StartLaunchesTheOperation :
    (running.busy = true) ∧ (h5.busy = false ∧ h5.ilen ≤ h5.params.inCap) ∧
    (oversize.busy = false ∧ oversize.params.inCap < oversize.ilen) ∧
    ((withInput h5 (.writeReg 0 0x302)).inputs = .writeReg 0x00 0x302 :: [] ∧ (0x302 : Word).getLsbD 8 = true ∧
      (0x302 : Word).setWidth 2 = OpCode.f7Dec.bits) := by decide

theorem witness_ClearReturnsToIdle : h5.ph = .done ∧ State.reset.ph = .idle ∧ running.busy = true ∧
    ((withInput h5 (.writeReg 0 0x203)).inputs = .writeReg 0x00 0x203 :: [] ∧ (0x203 : Word).getLsbD 8 = false ∧
      (0x203 : Word).getLsbD 9 = true ∧ (0x203 : Word).setWidth 2 = OpCode.f7Enc.bits) := by decide

theorem witness_RaiseEndsTheOperation : running.inputs = [] := rfl

theorem witness_HeaderParseReadsTheSizes :
    ({ loaded v1 with ph := .hdr } : State).inputs = [] ∧ ({ loaded v1 with ph := .hdr } : State).ph = .hdr ∧
    6 ≤ ({ loaded (v1.take 6) with ph := .hdr } : State).ilen ∧
    ({ loaded (v1.take 5) with ph := .hdr } : State).ilen < 6 := by decide

theorem witness_HsqSizesReadsTheHeaderOnly :
    ready (loaded (v1.take 6)) ∧ 6 ≤ (loaded (v1.take 6)).ilen ∧
    ready (loaded (v1.take 5)) ∧ (loaded (v1.take 5)).ilen < 6 :=
  ⟨⟨rfl, rfl, by decide⟩, by decide, ⟨rfl, rfl, by decide⟩, by decide⟩

theorem witness_AppendingInstructionsFrame :
    ∃ t, appends (.short 3 255) = true ∧ distance (.short 3 255) ≤ running.olen ∧
      running.olen + produced (.short 3 255) ≤ running.params.outCap ∧ exec (.short 3 255) running = .next t :=
  ⟨_, by decide, by decide, by decide, rfl⟩

theorem witness_StoringNothingFrame :
    (∃ t, appends (.eof 5) = false ∧ exec (.eof 5) atStop = .next t ∧ t.ph ≠ .fault) ∧
    (∃ t, appends (.clear .f7Dec) = false ∧ exec (.clear .f7Dec) h5 = .next t ∧ t.ph ≠ .fault) :=
  ⟨⟨_, rfl, rfl, by decide⟩, _, rfl, rfl, by decide⟩

theorem witness_EngineNeverWritesItsInput : ∃ t, engineMoves running ∧ step running = .next t := ⟨_, .inl rfl, rfl⟩

theorem witness_HostWritesWhileBusyAreIgnored :
    (withInput running (.writeReg 0 0x100)).busy = true ∧
    hostWrites (withInput running (.writeReg 0 0x100)) (.writeReg 0 0x100) ∧
    hostWrites (withInput running (.writeIn 65534 0)) (.writeIn 65534 0) ∧
    hostWrites (withInput running (.writeOut 0 0)) (.writeOut 0 0) :=
  ⟨rfl, .inl ⟨0, .ctrl, 0x100, rfl, rfl⟩, .inr (.inl ⟨_, _, rfl, by decide⟩), .inr (.inr ⟨_, _, rfl, by decide⟩)⟩

theorem witness_HostWritesToReadOnlyPlacesAreIgnored :
    (writesReadOnly h5 (.writeReg 0x04 0xFFFFFFFF) ∧ writesReadOnly h5 (.writeReg 0x30 1) ∧ writesReadOnly h5 (.writeOut 0 1)) ∧
    (withInput h5 (.writeReg 0x30 1)).inputs = .writeReg 0x30 1 :: [] :=
  ⟨⟨.inl ⟨_, _, rfl, by decide⟩, .inl ⟨_, _, rfl, by decide⟩, .inr ⟨_, _, rfl, by decide⟩⟩, rfl⟩

theorem witness_HostReadsAreExactWhereSpecified :
    (withInput running (.readReg 0x04)).inputs = .readReg 0x04 :: [] ∧
    (settled (withInput { h5 with ph := .fault } (.readReg 0x10)) ∧
      (withInput { h5 with ph := .fault } (.readReg 0x10)).inputs = .readReg 0x10 :: []) ∧
    ((withInput h5 (.readReg 0x28)).ph = .done ∧ (withInput h5 (.readReg 0x28)).inputs = .readReg 0x28 :: []) ∧
    (settled (withInput h5 (.readIn 65534)) ∧ 65534 < h5.params.inCap) ∧
    (∃ t, step (withInput running (.readIn 0)) = .next t) :=
  ⟨rfl, ⟨.inr (.inr rfl), rfl⟩, ⟨rfl, rfl⟩, ⟨.inr (.inl rfl), by decide⟩, _, rfl⟩

theorem witness_HostReadsTheResultOnly :
    (h5.ph = .done ∧ 1 < h5.rlen ∧ 1 < h5.params.outCap ∧ (withInput h5 (.readOut 1)).inputs = .readOut 1 :: []) ∧
    (h5.rlen ≤ 2 ∧ 2 < h5.params.outCap) ∧ (running.ph ≠ .done ∧ 0 < running.params.outCap) := by decide

theorem witness_HostLoadsTheInput :
    (withInput h5 (.writeReg 0x08 0xFFFFFFFF)).busy = false ∧
    (withInput h5 (.writeIn 65534 7)).busy = false ∧ 65534 < h5.params.inCap := by decide

theorem witness_EveryOperationEndsWithinItsBound : ready (loaded v1) := ⟨rfl, rfl, by decide⟩

theorem witness_ResultDependsOnTheArgumentsOnly :
    ready (loaded v1) ∧ ready h5 ∧ sameArguments (loaded v1) h5 := by
  refine ⟨⟨rfl, rfl, by decide⟩, ⟨rfl, rfl, by decide⟩, rfl, rfl, by decide⟩

theorem witness_F7DecComputesTheDecoding :
    ready (loaded [0xF7, 4, 0xAA]) ∧ holds (loaded [0xF7, 4, 0xAA]) [0xF7, 4, 0xAA] ∧
    257 * (loaded [0xF7, 4, 0xAA]).params.inCap ≤ (loaded [0xF7, 4, 0xAA]).params.outCap := by
  refine ⟨⟨rfl, rfl, by decide⟩, ⟨rfl, by decide⟩, by decide⟩

theorem witness_F7EncComputesTheEncoding :
    ready (loaded [0xAA, 0xAA, 0xAA, 0xAA]) ∧ holds (loaded [0xAA, 0xAA, 0xAA, 0xAA]) [0xAA, 0xAA, 0xAA, 0xAA] ∧
    257 * (loaded [0xAA]).params.inCap ≤ (loaded [0xAA]).params.outCap := by
  refine ⟨⟨rfl, rfl, by decide⟩, ⟨rfl, by decide⟩, by decide⟩

/-- The encoder's output on that input, as an input of F7_DEC. -/
theorem witness_F7RoundTripsOnTheMachine :
    ready (loaded [0xF7, 0x04, 0xAA]) ∧ holds (loaded [0xF7, 0x04, 0xAA]) (f7Encode [0xAA, 0xAA, 0xAA, 0xAA]) := by
  refine ⟨⟨rfl, rfl, by decide⟩, ⟨rfl, by decide⟩⟩

/-- The functions of the claims on the worked examples T4 and T5. -/
theorem test_f7_functions :
    f7Encode [0xF7] = [0xF7, 0x01, 0xF7] ∧ f7Encode [0xAA, 0xAA, 0xAA] = [0xAA, 0xAA, 0xAA] ∧
    f7Encode [0xAA, 0xAA, 0xAA, 0xAA] = [0xF7, 0x04, 0xAA] ∧ f7Decode [0xF7, 0x02, 0xF7, 0x01, 0xF7] = [0xF7, 0x02, 0xF7] := by
  decide

end Sys2Proof.Tests
end

section
/-! PROOFS. The decoders read a buffer below its length only (R46): two buffers equal there are decoded alike. -/

namespace Sys2Proof

/-- Two buffers with the same length and the same bytes below it. -/
structure Buffer.SameInput (d e : Buffer) : Prop where
  len : d.len = e.len
  byte : ∀ i < d.len, d.byte i = e.byte i

namespace Buffer.SameInput

variable {d e : Buffer}

theorem half (h : SameInput d e) {a : Nat} (ha : a + 2 ≤ d.len) : d.half a = e.half a := by
  simp only [Buffer.half, h.byte a (by omega), h.byte (a + 1) (by omega)]

theorem getBit_eq (h : SameInput d e) : getBit d = getBit e := by
  funext p
  simp only [getBit, ← h.len]
  by_cases hl : p.cur + 2 > d.len
  · simp only [if_pos hl]
  · simp only [if_neg hl, h.half (Nat.not_lt.mp hl)]

theorem readByte_eq (h : SameInput d e) : readByte d = readByte e := by
  funext p
  simp only [readByte, ← h.len]
  by_cases hl : p.cur + 1 > d.len
  · simp only [if_pos hl]
  · simp only [if_neg hl, h.byte p.cur (by omega)]

theorem readWord_eq (h : SameInput d e) : readWord d = readWord e := by
  funext p
  simp only [readWord, ← h.len]
  by_cases hl : p.cur + 2 > d.len
  · simp only [if_pos hl]
  · simp only [if_neg hl, h.half (Nat.not_lt.mp hl)]

/-- The HSQ decoder reads by the three reads of the Bit Reader only. -/
theorem decodeHsq_eq (h : SameInput d e) : decodeHsq d = decodeHsq e := by
  funext full p
  simp only [decodeHsq, decodeLit, decodeLong, decodeShort, h.getBit_eq, h.readByte_eq, h.readWord_eq]

theorem decodeF7_eq (h : SameInput d e) : decodeF7 d = decodeF7 e := by
  funext cur
  simp only [decodeF7, ← h.len]
  by_cases hl : d.len ≤ cur
  · simp only [if_pos hl]
  · rw [← h.byte cur (by omega)]
    by_cases hw : d.len - cur ≥ 3
    · rw [← h.byte (cur + 1) (by omega), ← h.byte (cur + 2) (by omega)]
    · simp only [hw, false_and, if_false]

theorem measureFrom_eq (h : SameInput d e) (cur : Nat) (v : Byte) (k r : Nat) :
    measureFrom d cur v k r = measureFrom e cur v k r := by
  induction k generalizing r with
  | zero => rfl
  | succ k ih =>
    simp only [measureFrom, ← h.len, ih]
    by_cases hl : cur + r < d.len
    · rw [h.byte _ hl]
    · simp only [hl, false_and, if_false]

theorem selectF7_eq (h : SameInput d e) : selectF7 d = selectF7 e := by
  funext cur
  by_cases hl : d.len ≤ cur
  · rw [selectF7, selectF7, if_pos hl, if_pos (h.len ▸ hl)]
  · have hb : d.byte cur = e.byte cur := h.byte cur (by omega)
    have hm : measure d cur = measure e cur := by rw [measure, measure, h.measureFrom_eq, hb]
    simp only [selectF7, ← h.len, hb, hm]

end Buffer.SameInput

end Sys2Proof
end

section
/-! PROOFS. Noninterference (R148): a relation between two machines that every engine step keeps and that makes them
look the same from outside. Two machines are `Alike` when they match, or when both are in FAULT with the same record. -/

namespace Sys2Proof.Machine

theorem headerSum_eq {d e : Buffer} (h : Buffer.SameInput d e) (hl : 6 ≤ d.len) : headerSum d = headerSum e := by
  have hb : ∀ i < 6, d.byte i = e.byte i := fun i hi => h.byte i (by omega)
  simp only [headerSum, hb 0 (by decide), hb 1 (by decide), hb 2 (by decide), hb 3 (by decide), hb 4 (by decide),
    hb 5 (by decide)]

/-- What the model keeps besides the two memories and its own counters: every register, the parameters, the moves to
come. The equality of two such states is the equality of all these fields at once. -/
def State.registers (s : State) : State :=
  { s with inMem := [], outMem := [], rdata := 0, draws := 0, inGen := 0, outGen := 0 }

/-- The registers that a fault leaves specified: all but CUR, OLEN and Q (R185, U2). -/
def State.record (s : State) : State := { s.registers with cur := 0, olen := 0, q := 0 }

/-- Two machines at the same point of the same operation: equal registers, the same input below ILEN and the same output
below OLEN. Bytes beyond these bounds may differ. -/
structure Matches (s t : State) : Prop where
  registers : s.registers = t.registers
  quiet : s.inputs = []
  input : ∀ i < s.ilen, s.inByte i = t.inByte i
  output : ∀ i < s.olen, s.outByte i = t.outByte i
  within : s.rlen ≤ s.olen

/-- Two machines whose operations ended in the same fault. -/
structure BothFaulted (s t : State) : Prop where
  fault : s.ph = .fault
  quiet : s.inputs = []
  record : s.record = t.record

/-- The relation every step keeps. -/
def Alike (s t : State) : Prop := Matches s t ∨ BothFaulted s t

namespace Matches

variable {s t : State}

/-- Whatever is computed from the registers is the same on both sides. -/
theorem congr {α : Type} (h : Matches s t) (f : State → α) : f s.registers = f t.registers := congrArg f h.registers

theorem cur (h : Matches s t) : s.cur = t.cur := h.congr State.cur
theorem olen (h : Matches s t) : s.olen = t.olen := h.congr State.olen
theorem ilen (h : Matches s t) : s.ilen = t.ilen := h.congr State.ilen
theorem dsize (h : Matches s t) : s.dsize = t.dsize := h.congr State.dsize
theorem params (h : Matches s t) : s.params = t.params := h.congr State.params
theorem ph (h : Matches s t) : s.ph = t.ph := h.congr State.ph
theorem opl (h : Matches s t) : s.opl = t.opl := h.congr State.opl
theorem pos (h : Matches s t) : s.pos = t.pos := h.congr State.pos
theorem full (h : Matches s t) : s.full = t.full := h.congr State.full
theorem busy (h : Matches s t) : s.busy = t.busy := h.congr State.busy
theorem quiet_right (h : Matches s t) : t.inputs = [] := (h.congr State.inputs).symm.trans h.quiet

theorem sameArguments (h : Matches s t) : Safety.sameArguments s t := ⟨h.params, h.ilen, h.input⟩

theorem buffer (h : Matches s t) : Buffer.SameInput s.buffer t.buffer := ⟨h.ilen, h.input⟩

/-! ### The operations keep `Matches` -/

theorem withPos (h : Matches s t) (p : Pos) : Matches (s.withPos p) (t.withPos p) :=
  ⟨h.congr (State.withPos · p), h.quiet, h.input, h.output, h.within⟩

theorem advance (h : Matches s t) (k : Nat) : Matches (s.advance k) (t.advance k) :=
  ⟨h.congr (State.advance · k), h.quiet, h.input, h.output, h.within⟩

theorem push (h : Matches s t) (v : Byte) : Matches (s.push v) (t.push v) where
  registers := h.congr (fun r => { r with olen := r.olen + 1 })
  quiet := h.quiet
  input := h.input
  output i hi := by
    rw [State.push_olen] at hi
    rw [State.outByte_push, State.outByte_push, ← h.olen]
    split
    · rfl
    · exact h.output i (by omega)
  within := Nat.le_succ_of_le h.within

theorem pushList (vs : List Byte) (h : Matches s t) : Matches (s.pushList vs) (t.pushList vs) := by
  induction vs generalizing s t with
  | nil => exact h
  | cons v vs ih => exact ih (h.push v)

/-- A copy reads OUT below OLEN only: its distance is at least 1 and at most OLEN, which grows. -/
theorem copyLoop {d : Nat} (hd : 0 < d) (n : Nat) (h : Matches s t) (hle : d ≤ s.olen) :
    Matches (State.copyLoop d n s) (State.copyLoop d n t) := by
  induction n generalizing s t with
  | zero => exact h
  | succ n ih =>
    have hv : s.outByte (s.olen - d) = t.outByte (t.olen - d) := by
      rw [← h.olen]
      exact h.output _ (by omega)
    simp only [State.copyLoop, ← hv]
    exact ih (h.push _) (Nat.le_succ_of_le hle)

theorem storeOp (h : Matches s t) (op : OpCode) : Matches (s.storeOp op) (t.storeOp op) := by
  simp only [State.storeOp, ← h.busy]
  split
  · exact h
  · exact ⟨h.congr (fun r => { r with ctrlOp := op }), h.quiet, h.input, h.output, h.within⟩

theorem clearResult (h : Matches s t) : Matches s.clearResult t.clearResult :=
  ⟨h.congr State.clearResult, h.quiet, h.input, h.output, Nat.zero_le _⟩

theorem clear (h : Matches s t) (op : OpCode) : Matches (s.clear op) (t.clear op) := by
  simp only [State.clear, ← h.ph]
  split
  · exact (h.storeOp op).clearResult
  · exact h.storeOp op

theorem finishWith (h : Matches s t) {n : Nat} (hn : n ≤ s.olen) : Matches (s.finishWith n) (t.finishWith n) :=
  ⟨h.congr (State.finishWith · n), h.quiet, h.input, h.output, hn⟩

theorem raise (h : Matches s t) (x : Cause) (addr info : Nat) :
    BothFaulted (s.raise x addr info) (t.raise x addr info) :=
  ⟨rfl, h.quiet, h.congr (fun r => (r.raise x addr info).record)⟩

theorem hsqFinish (h : Matches s t) (reason : StopReason) : Alike (s.hsqFinish reason) (t.hsqFinish reason) := by
  have hiff : s.olen < s.dsize.toNat ↔ t.olen < t.dsize.toNat := by rw [h.olen, h.dsize]
  by_cases hd : s.olen < s.dsize.toNat
  · rw [State.hsqFinish, State.hsqFinish, if_pos hd, if_pos (hiff.mp hd), ← h.cur]
    exact .inr (h.raise _ _ _)
  · rw [State.hsqFinish, State.hsqFinish, if_neg hd, if_neg (mt hiff.mpr hd)]
    exact .inl ⟨h.congr (fun r => { r with
        rlen := r.dsize.toNat, ovr := decide (r.olen > r.dsize.toNat), stopr := reason, ph := .done }),
      h.quiet, h.input, h.output, Nat.not_lt.mp hd⟩

/-- A complete header is read the same on both sides. -/
theorem parsed (h : Matches s t) (hl : Config.hdrLen ≤ s.ilen) : Matches s.parsed t.parsed where
  registers := by
    have hlen : 6 ≤ s.buffer.len := hl
    have hsum := headerSum_eq h.buffer hlen
    have h0 : s.buffer.half 0 = t.buffer.half 0 := h.buffer.half (by omega)
    have h3 : s.buffer.half 3 = t.buffer.half 3 := h.buffer.half (by omega)
    simp only [State.parsed, hsum, h0, h3]
    exact h.congr (fun r => { r with
      dsize := t.buffer.half 0, csize := t.buffer.half 3, csum := headerSum t.buffer,
      sigok := signatureOk (headerSum t.buffer), cur := Config.hdrLen, q := 0 })
  quiet := h.quiet
  input := h.input
  output := h.output
  within := h.within

theorem hdrStep (h : Matches s t) : Alike s.hdrStep t.hdrStep := by
  simp only [State.hdrStep, ← h.ilen, ← h.opl]
  split
  · exact .inr (h.raise _ _ _)
  · next hl =>
    have hp := h.parsed (Nat.not_lt.mp hl)
    split
    · exact .inl (hp.finishWith (Nat.zero_le _))
    · exact .inl ⟨hp.congr (fun r => { r with ph := .hsq }), hp.quiet, hp.input, hp.output, hp.within⟩

end Matches

/-! ### Launch -/

/-- What START wipes and what it sets (R140) leaves two machines with the same arguments equal but for bytes
at or beyond ILEN and OLEN. -/
theorem matches_wiped {s t : State} (op : OpCode) (ph : Phase) (hs : s.inputs = []) (ht : t.inputs = [])
    (h : Safety.sameArguments s t) : Matches { s.wiped op with ph := ph } { t.wiped op with ph := ph } := by
  obtain ⟨hparams, hilen, hinput⟩ := h
  exact {
    registers := by simp only [State.wiped, State.registers, hparams, hilen, hs, ht]
    quiet := hs
    input := hinput
    output := fun _ hi => absurd hi (Nat.not_lt_zero _)
    within := Nat.le_refl 0 }

/-- START with the same launch arguments, in two machines that are not BUSY, whatever else they hold. -/
theorem alike_start {s t : State} (op : OpCode) (hs : s.inputs = []) (ht : t.inputs = []) (hbs : s.busy = false)
    (hbt : t.busy = false) (h : Safety.sameArguments s t) : Alike (s.start op) (t.start op) := by
  have ⟨hparams, hilen, _⟩ := h
  simp only [State.start, hbs, hbt, ← hparams, ← hilen, Bool.false_eq_true, if_false]
  split
  · exact .inr ((matches_wiped op .fault hs ht h).raise _ _ _)
  · exact .inl (matches_wiped op _ hs ht h)

theorem Matches.start {s t : State} (h : Matches s t) (op : OpCode) : Alike (s.start op) (t.start op) := by
  cases hb : s.busy with
  | true =>
    simp only [State.start, ← h.busy, hb, if_true]
    exact .inl h
  | false => exact alike_start op h.quiet h.quiet_right hb (h.busy ▸ hb) h.sameArguments

/-! ### Rules that may raise -/

/-- Two rules that end the same way, in states that correspond. -/
inductive Raising.Alike : Raising → Raising → Prop
  | ok {s t : State} (h : Matches s t) : Raising.Alike (.ok s) (.ok t)
  | raised {s t : State} (h : BothFaulted s t) : Raising.Alike (.raised s) (.raised t)

theorem Raising.Alike.andThen {a b : Raising} {f : State → State} (h : Raising.Alike a b)
    (hf : ∀ {s t}, Matches s t → Matches (f s) (f t)) : Raising.Alike (a.andThen f) (b.andThen f) := by
  cases h with
  | ok h => exact .ok (hf h)
  | raised h => exact .raised h

/-- The capacity test speaks of OLEN and OUT_CAP only, so it decides alike. -/
theorem Matches.room_andThen {s t : State} {f : State → State} (h : Matches s t) (k : Nat)
    (hf : Matches (f s) (f t)) : Raising.Alike ((s.room k).andThen f) ((t.room k).andThen f) := by
  simp only [State.room, ← h.olen, ← h.params, ← h.cur]
  split
  · exact .raised (h.raise _ _ _)
  · exact .ok hf

theorem Matches.append {s t : State} (h : Matches s t) (v : Byte) : Raising.Alike (s.append v) (t.append v) :=
  h.room_andThen 1 (h.push v)

theorem Matches.appendList {s t : State} (h : Matches s t) (vs : List Byte) :
    Raising.Alike (s.appendList vs) (t.appendList vs) := h.room_andThen vs.length (h.pushList vs)

theorem Matches.copy {s t : State} (h : Matches s t) {d : Nat} (hd : 0 < d) (n : Nat) :
    Raising.Alike (s.copy d n) (t.copy d n) := by
  simp only [State.copy, ← h.olen, ← h.cur]
  split
  · exact .raised (h.raise _ _ _)
  · next hle => exact h.room_andThen n (h.copyLoop hd n (Nat.not_lt.mp hle))

/-! ### One step -/

/-- Two outcomes that are next states alike. -/
inductive AlikeNext : Host.Outcome State Fault Refusal → Host.Outcome State Fault Refusal → Prop
  | next {s t : State} (h : Alike s t) : AlikeNext (.next s) (.next t)

theorem Raising.Alike.outcome {a b : Raising} (h : Raising.Alike a b) : AlikeNext a.outcome b.outcome := by
  cases h with
  | ok h => exact .next (.inl h)
  | raised h => exact .next (.inr h)

theorem longDistance_pos (field : BitVec 13) : 0 < longDistance field := Nat.sub_pos_of_lt field.isLt

theorem shortDistance_pos (b : Byte) : 0 < shortDistance b := Nat.sub_pos_of_lt b.isLt

/-- Every instruction takes matching machines to machines alike. -/
theorem Matches.exec {s t : State} (h : Matches s t) (i : Instr) : AlikeNext (exec i s) (exec i t) := by
  cases i with
  | lit b => exact (h.append b).outcome
  | litStop => exact .next (h.hsqFinish .litFull)
  | long field count => exact (h.copy (longDistance_pos field) _).outcome
  | longx field extra => exact (h.copy (longDistance_pos field) _).outcome
  | eof field => exact .next (h.hsqFinish .eof)
  | short count b => exact (h.copy (shortDistance_pos b) _).outcome
  | esc => exact ((h.append _).andThen (·.advance 3)).outcome
  | run nn vv => exact ((h.appendList _).andThen (·.advance 3)).outcome
  | byte b => exact ((h.append b).andThen (·.advance 1)).outcome
  | tail b => exact ((h.append b).andThen (·.advance 1)).outcome
  | erun r v => exact ((h.appendList _).andThen (·.advance r.toNat)).outcome
  | eesc => exact ((h.appendList _).andThen (·.advance 1)).outcome
  | ebyte v => exact ((h.append v).andThen (·.advance 1)).outcome
  | hsqDec => exact .next (h.start .hsqDec)
  | hsqSizes => exact .next (h.start .hsqSizes)
  | f7Dec => exact .next (h.start .f7Dec)
  | f7Enc => exact .next (h.start .f7Enc)
  | clear op => exact .next (.inl (h.clear op))

/-- Two actions of the engine that do the same in corresponding states. -/
inductive Action.Alike : Action → Action → Prop
  | run (i : Instr) {s t : State} (h : Matches s t) : Action.Alike (.run i s) (.run i t)
  | moved {s t : State} (h : Machine.Alike s t) : Action.Alike (.moved s) (.moved t)

theorem Matches.fetchHsq {s t : State} (h : Matches s t) : Action.Alike (fetchHsq s) (fetchHsq t) := by
  simp only [Machine.fetchHsq, ← h.buffer.decodeHsq_eq, ← h.full, ← h.pos]
  split
  · exact .run _ (h.withPos _)
  · exact .moved (.inr (h.raise _ _ _))

theorem Matches.fetchF7d {s t : State} (h : Matches s t) : Action.Alike (fetchF7d s) (fetchF7d t) := by
  simp only [Machine.fetchF7d, ← h.buffer.decodeF7_eq, ← h.cur, ← h.olen]
  split
  · exact .run _ h
  · exact .moved (.inl (h.finishWith (Nat.le_refl _)))

theorem Matches.fetchF7e {s t : State} (h : Matches s t) : Action.Alike (fetchF7e s) (fetchF7e t) := by
  simp only [Machine.fetchF7e, ← h.buffer.selectF7_eq, ← h.cur, ← h.olen]
  split
  · exact .run _ h
  · exact .moved (.inl (h.finishWith (Nat.le_refl _)))

theorem Matches.engineTurn {s t : State} (h : Matches s t) : Action.Alike (engineTurn s) (engineTurn t) := by
  simp only [Machine.engineTurn, ← h.ph]
  cases s.ph with
  | idle | done | fault => exact .moved (.inl h)
  | hdr => exact .moved h.hdrStep
  | hsq => exact h.fetchHsq
  | f7d => exact h.fetchF7d
  | f7e => exact h.fetchF7e

theorem Matches.step {s t : State} (h : Matches s t) : AlikeNext (step s) (step t) := by
  have ha := h.engineTurn
  generalize hs : Machine.engineTurn s = a, ht : Machine.engineTurn t = b at ha
  rw [← fetch_nil h.quiet] at hs
  rw [← fetch_nil h.quiet_right] at ht
  cases ha with
  | run i h' =>
    rw [step_of_run hs, step_of_run ht]
    exact h'.exec i
  | moved h' =>
    rw [step_of_moved hs, step_of_moved ht]
    exact .next h'

/-- In FAULT the engine waits (R185). -/
theorem step_fault {s : State} (hq : s.inputs = []) (hf : s.ph = .fault) : step s = .next s :=
  step_of_moved (by rw [fetch_nil hq, engineTurn, hf])

namespace BothFaulted

variable {s t : State}

/-- Whatever is computed from the record is the same on both sides. -/
theorem congr {α : Type} (h : BothFaulted s t) (f : State → α) : f s.record = f t.record := congrArg f h.record

theorem fault_right (h : BothFaulted s t) : t.ph = .fault := (h.congr State.ph).symm.trans h.fault
theorem quiet_right (h : BothFaulted s t) : t.inputs = [] := (h.congr State.inputs).symm.trans h.quiet

theorem step (h : BothFaulted s t) : AlikeNext (step s) (step t) := by
  rw [step_fault h.quiet h.fault, step_fault h.quiet_right h.fault_right]
  exact .next (.inr h)

end BothFaulted

theorem Alike.step {s t : State} (h : Alike s t) : AlikeNext (step s) (step t) :=
  h.elim Matches.step BothFaulted.step

theorem run_succ_of_step (M : Host.Core) {s t : M.State} (h : M.step s = .next t) (n : Nat) :
    M.run (n + 1) s = M.run n t := by
  simp only [Host.Core.run, h]

theorem runs_succ_of_step {s t : State} (h : step s = .next t) (n : Nat) :
    Safety.runs (n + 1) s = Safety.runs n t := run_succ_of_step Sys2Proof.core h n

/-- A relation kept by one step is kept by any number of steps. -/
theorem Alike.runs {s t : State} (h : Alike s t) (n : Nat) : AlikeNext (Safety.runs n s) (Safety.runs n t) := by
  induction n generalizing s t with
  | zero => exact .next h
  | succ n ih =>
    have hstep := h.step
    generalize hs : Machine.step s = a, ht : Machine.step t = b at hstep
    cases hstep with
    | next h' =>
      rw [runs_succ_of_step hs, runs_succ_of_step ht]
      exact ih h'

/-! ### What is observed -/

theorem outBytes_eq {s t : State} {n : Nat} (h : ∀ i < n, s.outByte i = t.outByte i) :
    Safety.outBytes s n = Safety.outBytes t n := by
  induction n with
  | zero => rfl
  | succ n ih =>
    rw [Safety.outBytes, Safety.outBytes, ih (fun i hi => h i (by omega)), h n (Nat.lt_succ_self n)]

theorem Matches.result {s t : State} (h : Matches s t) : Safety.result s = Safety.result t := by
  have hrlen : s.rlen = t.rlen := h.congr State.rlen
  have hout := outBytes_eq (fun i hi => h.output i (Nat.lt_of_lt_of_le hi h.within))
  rw [Safety.result, Safety.result, ← h.ph, ← hrlen, hout]

/-- All that is observed, but for the result, is a function of the registers. -/
theorem observed_registers (s : State) :
    Safety.observed s = { Safety.observed s.registers with result := Safety.result s } := rfl

/-- In FAULT all that is observed is a function of the registers that a fault leaves specified. -/
theorem observed_record {s : State} (h : s.ph = .fault) : Safety.observed s = Safety.observed s.record := by
  have hrec : s.record.ph = .fault := h
  simp only [Safety.observed, Safety.result, h, hrec, reduceCtorEq, if_false]
  rfl

theorem Alike.observed {s t : State} (h : Alike s t) : Safety.observed s = Safety.observed t := by
  obtain h | h := h
  · rw [observed_registers s, observed_registers t, h.registers, h.result]
  · rw [observed_record h.fault, observed_record h.fault_right, h.record]

end Sys2Proof.Machine

namespace Sys2Proof.Proofs

open Sys2Proof.Machine Sys2Proof.Safety

/-- Settles O48: the launched machines are alike, every step keeps that, and machines alike are observed the same. -/
theorem resultDependsOnTheArgumentsOnly : Obligations.ResultDependsOnTheArgumentsOnly := by
  rintro s1 s2 op n ⟨hq1, hb1, -⟩ ⟨hq2, hb2, -⟩ hargs
  have h := (alike_start op hq1 hq2 hb1 hb2 hargs).runs n
  generalize h1 : runs n (s1.start op) = a, h2 : runs n (s2.start op) = b at h
  cases h with
  | next h => exact ⟨_, _, rfl, rfl, h.observed⟩

end Sys2Proof.Proofs
end

section
/-! PROOFS. What an instruction and a fetch can do, said once: an appending instruction either appends its bytes or
raises one of two faults, and each decoder moves on by bytes that are there. -/

namespace Sys2Proof

open Sys2Proof.Safety

/-! ### How far the decoders read -/

/-- The outcome of a read of the buffer at p: a position between p and the end, or a failed read of at most two bytes at
such a position. -/
def ReadsOn (d : Buffer) (p : Pos) {α : Type} : Except Trunc (α × Pos) → Prop
  | .ok (_, p') => p.cur ≤ p'.cur ∧ p'.cur ≤ d.len
  | .error e => e.addr ≤ d.len ∧ e.need ≤ 2

namespace ReadsOn

variable {d : Buffer} {p p1 : Pos} {α β : Type}

/-- A read that follows a successful one. -/
theorem after {a : α} {r : Except Trunc (β × Pos)} (h1 : ReadsOn d p (.ok (a, p1))) (h : ReadsOn d p1 r) :
    ReadsOn d p r := by
  cases r with
  | ok x => exact ⟨h1.1.trans h.1, h.2⟩
  | error e => exact h

theorem getBit (hp : p.cur ≤ d.len) : ReadsOn d p (getBit d p) := by
  rcases getBit_cases d p with ⟨-, e⟩ | ⟨-, hl, e⟩ | ⟨-, -, e⟩ <;> rw [e]
  · exact ⟨Nat.le_refl _, hp⟩
  · exact ⟨Nat.le_add_right _ _, hl⟩
  · exact ⟨hp, Nat.le_refl _⟩

theorem readByte (hp : p.cur ≤ d.len) : ReadsOn d p (readByte d p) := by
  by_cases hl : p.cur + 1 ≤ d.len
  · rw [readByte_ok hl]
    exact ⟨Nat.le_add_right _ _, hl⟩
  · rw [readByte_error (by omega)]
    exact ⟨hp, Nat.le_succ 1⟩

theorem readWord (hp : p.cur ≤ d.len) : ReadsOn d p (readWord d p) := by
  by_cases hl : p.cur + 2 ≤ d.len
  · rw [readWord_ok hl]
    exact ⟨Nat.le_add_right _ _, hl⟩
  · rw [readWord_error (by omega)]
    exact ⟨hp, Nat.le_refl _⟩

theorem decodeLit (full : Bool) (hp : p.cur ≤ d.len) : ReadsOn d p (decodeLit d full p) := by
  have h1 := readByte hp
  unfold Sys2Proof.decodeLit
  split
  · exact ⟨Nat.le_refl _, hp⟩
  · split
    · next e hb => rw [hb] at h1; exact h1
    · next b p1 hb => rw [hb] at h1; exact h1

theorem decodeLong (hp : p.cur ≤ d.len) : ReadsOn d p (decodeLong d p) := by
  have h1 := readWord hp
  unfold Sys2Proof.decodeLong
  split
  · next e hw => rw [hw] at h1; exact h1
  · next w p1 hw =>
    rw [hw] at h1
    have h2 := h1.after (readByte h1.2)
    split
    · exact h1
    · split
      · next e hb => rw [hb] at h2; exact h2
      · next x p2 hb => rw [hb] at h2; split <;> exact h2

theorem decodeShort (hp : p.cur ≤ d.len) : ReadsOn d p (decodeShort d p) := by
  have h1 := getBit hp
  unfold Sys2Proof.decodeShort
  split
  · next e hb => rw [hb] at h1; exact h1
  · next c1 p1 hb =>
    rw [hb] at h1
    have h2 := h1.after (getBit h1.2)
    split
    · next e hb => rw [hb] at h2; exact h2
    · next c0 p2 hb =>
      rw [hb] at h2
      have h3 := h2.after (readByte h2.2)
      split
      · next e hb => rw [hb] at h3; exact h3
      · next b p3 hb => rw [hb] at h3; exact h3

/-- An HSQ command is read from bytes below ILEN, and so is what a command cut short names (R101, R182). -/
theorem decodeHsq (full : Bool) (hp : p.cur ≤ d.len) : ReadsOn d p (decodeHsq d full p) := by
  have h1 := getBit hp
  unfold Sys2Proof.decodeHsq
  split
  · next e hb => rw [hb] at h1; exact h1
  · next p1 hb => rw [hb] at h1; exact h1.after (decodeLit full h1.2)
  · next p1 hb =>
    rw [hb] at h1
    have h2 := h1.after (getBit h1.2)
    split
    · next e hb => rw [hb] at h2; exact h2
    · next p2 hb => rw [hb] at h2; exact h2.after (decodeLong h2.2)
    · next p2 hb => rw [hb] at h2; exact h2.after (decodeShort h2.2)

end ReadsOn

/-! ### Which instructions the decoders answer -/

/-- Every answer of the HSQ decoder is a command it can meet. -/
theorem decodeHsq_meets {d : Buffer} {full : Bool} {p p' : Pos} {i : Instr} (h : decodeHsq d full p = .ok (i, p')) :
    hsqMeets full i = true := by
  unfold decodeHsq at h
  split at h
  · cases h
  · unfold decodeLit at h
    cases full with
    | true => cases h; rfl
    | false =>
      rw [if_neg Bool.false_ne_true] at h
      split at h <;> cases h
      rfl
  · split at h
    · cases h
    · unfold decodeLong at h
      split at h
      · cases h
      · split at h
        · cases h; rfl
        · split at h
          · cases h
          · split at h <;> cases h <;> rfl
    · unfold decodeShort at h
      iterate 3 (split at h; · cases h)
      cases h; rfl

/-- An HSQ command appends or is one of the two stops; its rule moves no cursor. -/
theorem hsqMeets_cases {full : Bool} {i : Instr} (h : hsqMeets full i = true) :
    consumed i = 0 ∧ (appends i = true ∨ i = .litStop ∨ ∃ field, i = .eof field) := by
  cases i with
  | lit | long | longx | short => exact ⟨rfl, .inl rfl⟩
  | litStop => exact ⟨rfl, .inr (.inl rfl)⟩
  | eof field => exact ⟨rfl, .inr (.inr ⟨field, rfl⟩)⟩
  | esc | run | byte | tail | erun | eesc | ebyte | hsqDec | hsqSizes | f7Dec | f7Enc | clear => cases h

/-- An F7 element fits its input: it appends without a reference, and the bytes it consumes are there. -/
structure ElementAt (d : Buffer) (cur : Nat) (i : Instr) : Prop where
  appends : appends i = true
  noReference : distance i = 0
  fits : cur + consumed i ≤ d.len

theorem decodeF7_end {d : Buffer} {cur : Nat} (h : d.len ≤ cur) : decodeF7 d cur = none := by
  rw [decodeF7, if_pos h]

/-- With input left the F7 decoder selects some element (R120). -/
theorem decodeF7_element {d : Buffer} {cur : Nat} (h : cur < d.len) :
    ∃ i, decodeF7 d cur = some i ∧ ElementAt d cur i := by
  rw [decodeF7, if_neg (Nat.not_le.mpr h)]
  split
  · next hw => exact ⟨_, rfl, rfl, rfl, by simp only [consumed]; omega⟩
  · split
    · next hw => exact ⟨_, rfl, rfl, rfl, by simp only [consumed]; omega⟩
    · split <;> exact ⟨_, rfl, rfl, rfl, h⟩

theorem measureFrom_bounds (d : Buffer) (cur : Nat) (v : Byte) (k r : Nat) (h : cur + r ≤ d.len) :
    cur + measureFrom d cur v k r ≤ d.len ∧ measureFrom d cur v k r ≤ r + k := by
  induction k generalizing r with
  | zero => exact ⟨h, Nat.le_refl _⟩
  | succ k ih =>
    rw [measureFrom]
    split
    · next hc =>
      have := ih (r + 1) hc.1
      exact ⟨this.1, by omega⟩
    · exact ⟨h, by omega⟩

/-- The run measured is in the input, and at most 255 long (R130). -/
theorem measure_bounds {d : Buffer} {cur : Nat} (h : cur < d.len) :
    cur + measure d cur ≤ d.len ∧ measure d cur ≤ 255 :=
  measureFrom_bounds d cur _ (Config.f7RunMax - 1) 1 h

theorem selectF7_end {d : Buffer} {cur : Nat} (h : d.len ≤ cur) : selectF7 d cur = none := by
  rw [selectF7, if_pos h]

/-- With input left the F7 encoder selects some element (R130). -/
theorem selectF7_element {d : Buffer} {cur : Nat} (h : cur < d.len) :
    ∃ i, selectF7 d cur = some i ∧ ElementAt d cur i := by
  obtain ⟨hfit, hmax⟩ := measure_bounds h
  rw [selectF7, if_neg (Nat.not_le.mpr h)]
  split
  · refine ⟨_, rfl, rfl, rfl, ?_⟩
    rwa [consumed, BitVec.toNat_ofNat, Nat.mod_eq_of_lt (by omega)]
  · split <;> exact ⟨_, rfl, rfl, rfl, h⟩

end Sys2Proof

namespace Sys2Proof.Machine

open Sys2Proof.Safety

/-! ### Appending instructions -/

@[simp] theorem State.pushList_ph (s : State) (vs : List Byte) : (s.pushList vs).ph = s.ph := by
  rw [State.pushList_eq]

@[simp] theorem State.pushList_ilen (s : State) (vs : List Byte) : (s.pushList vs).ilen = s.ilen := by
  rw [State.pushList_eq]

@[simp] theorem State.pushList_cur (s : State) (vs : List Byte) : (s.pushList vs).cur = s.cur := by
  rw [State.pushList_eq]

@[simp] theorem State.pushList_params (s : State) (vs : List Byte) : (s.pushList vs).params = s.params := by
  rw [State.pushList_eq]

@[simp] theorem State.pushList_inMem (s : State) (vs : List Byte) : (s.pushList vs).inMem = s.inMem := by
  rw [State.pushList_eq]

@[simp] theorem State.pushList_inGen (s : State) (vs : List Byte) : (s.pushList vs).inGen = s.inGen := by
  rw [State.pushList_eq]

/-- A copy appends some group of n bytes. -/
theorem State.copyLoop_eq_pushList (d n : Nat) (s : State) :
    ∃ vs : List Byte, vs.length = n ∧ State.copyLoop d n s = s.pushList vs := by
  induction n generalizing s with
  | zero => exact ⟨[], rfl, rfl⟩
  | succ n ih =>
    obtain ⟨vs, hlen, heq⟩ := ih (s.push (s.outByte (s.olen - d)))
    exact ⟨s.outByte (s.olen - d) :: vs, congrArg (· + 1) hlen, heq⟩

/-- Everything an appending instruction can do: append as many bytes as it produces and consume its element, or raise
for its reference, or for the room it has not (R47, R108). -/
inductive AppendStep (i : Instr) (s : State) : State → Prop
  | fits (vs : List Byte) (hlen : vs.length = produced i) (href : distance i ≤ s.olen)
      (hroom : s.olen + produced i ≤ s.params.outCap) : AppendStep i s ((s.pushList vs).advance (consumed i))
  | badReference (href : s.olen < distance i) :
      AppendStep i s (s.raise .invalidBackReference s.cur (distance i))
  | noRoom (href : distance i ≤ s.olen) (hroom : s.params.outCap < s.olen + produced i) :
      AppendStep i s (s.raise .sizeLimitExceeded s.cur 2)

theorem appendStep_of_appendList {i : Instr} (s : State) (vs : List Byte) (hlen : vs.length = produced i)
    (href : distance i = 0) :
    ∃ t, ((s.appendList vs).andThen (fun t => t.advance (consumed i))).outcome = .next t ∧ AppendStep i s t := by
  have href : distance i ≤ s.olen := by omega
  by_cases hroom : s.olen + vs.length ≤ s.params.outCap
  · rw [State.appendList_ok hroom]
    exact ⟨_, rfl, .fits vs hlen href (hlen ▸ hroom)⟩
  · rw [State.appendList_full (Nat.lt_of_not_le hroom)]
    exact ⟨_, rfl, .noRoom href (hlen ▸ Nat.lt_of_not_le hroom)⟩

theorem appendStep_of_copy {i : Instr} (s : State) (hcons : consumed i = 0) :
    ∃ t, (s.copy (distance i) (produced i)).outcome = .next t ∧ AppendStep i s t := by
  rcases s.copy_cases (distance i) (produced i) with ⟨href, hroom, e⟩ | ⟨href, e⟩ | ⟨href, hroom, e⟩ <;> rw [e]
  · obtain ⟨vs, hlen, heq⟩ := State.copyLoop_eq_pushList (distance i) (produced i) s
    have hfits := AppendStep.fits vs hlen href hroom
    rw [hcons] at hfits
    exact ⟨_, rfl, heq ▸ hfits⟩
  · exact ⟨_, rfl, .badReference href⟩
  · exact ⟨_, rfl, .noRoom href hroom⟩

/-- One byte appended with no element consumed (R102), as a group. -/
theorem State.append_eq_appendList (s : State) (v : Byte) :
    s.append v = (s.appendList [v]).andThen (fun t => t.advance 0) := by
  unfold State.append State.appendList
  cases s.room [v].length <;> rfl

theorem exec_appends {i : Instr} (h : appends i = true) (s : State) : ∃ t, exec i s = .next t ∧ AppendStep i s t := by
  cases i with
  | lit b =>
    rw [exec, execLit, State.append_eq_appendList]
    exact appendStep_of_appendList (i := .lit b) s [b] rfl rfl
  | long field count => exact appendStep_of_copy (i := .long field count) s rfl
  | longx field extra => exact appendStep_of_copy (i := .longx field extra) s rfl
  | short count b => exact appendStep_of_copy (i := .short count b) s rfl
  | esc => exact appendStep_of_appendList (i := .esc) s [_] rfl rfl
  | run nn vv => exact appendStep_of_appendList (i := .run nn vv) s _ List.length_replicate rfl
  | byte b => exact appendStep_of_appendList (i := .byte b) s [b] rfl rfl
  | tail b => exact appendStep_of_appendList (i := .tail b) s [b] rfl rfl
  | erun r v => exact appendStep_of_appendList (i := .erun r v) s _ rfl rfl
  | eesc => exact appendStep_of_appendList (i := .eesc) s _ rfl rfl
  | ebyte v => exact appendStep_of_appendList (i := .ebyte v) s [v] rfl rfl
  | litStop | eof | hsqDec | hsqSizes | f7Dec | f7Enc | clear => cases h

/-- An appending instruction ends in FAULT exactly when it raises, and else leaves PH. -/
theorem AppendStep.ph {i : Instr} {s t : State} (h : AppendStep i s t) :
    t.ph = if s.olen < distance i ∨ s.params.outCap < s.olen + produced i then .fault else s.ph := by
  cases h with
  | fits vs _ href hroom => rw [if_neg (by omega)]; exact State.pushList_ph s vs
  | badReference href => rw [if_pos (.inl href)]; rfl
  | noRoom _ hroom => rw [if_pos (.inr hroom)]; rfl

end Sys2Proof.Machine
end

section
/-! PROOFS. One step of the machine, inverted once: everything the engine's own step can do, and everything a move of the
outside world can do. -/

namespace Sys2Proof.Machine

open Sys2Proof.Safety

/-! ### The engine's step -/

/-- Everything the engine's own step can do (R15), from the state with its turn taken. -/
inductive EngineStep (s : State) : State → Prop
  /-- In IDLE, DONE and FAULT the engine waits. -/
  | wait (h : settled s) : EngineStep s s
  | header (h : s.ph = .hdr) : EngineStep s s.hdrStep
  /-- A command cut short (R182). -/
  | truncated (h : s.ph = .hsq) {e : Trunc} (hd : decodeHsq s.buffer s.full s.pos = .error e) :
      EngineStep s (s.truncated e)
  | command (h : s.ph = .hsq) {i : Instr} {p : Pos} (hd : decodeHsq s.buffer s.full s.pos = .ok (i, p))
      (ha : appends i = true) {t : State} (ht : AppendStep i (s.withPos p) t) : EngineStep s t
  /-- LIT.stop or EOF (R103, R106). -/
  | stop (h : s.ph = .hsq) {i : Instr} {p : Pos} (hd : decodeHsq s.buffer s.full s.pos = .ok (i, p))
      (ha : appends i = false) : EngineStep s ((s.withPos p).hsqFinish (if i = .litStop then .litFull else .eof))
  /-- An F7 element (R120, R130). -/
  | element {i : Instr} (h : s.ph = .f7d ∧ decodeF7 s.buffer s.cur = some i ∨
        s.ph = .f7e ∧ selectF7 s.buffer s.cur = some i)
      (hi : ElementAt s.buffer s.cur i) {t : State} (ht : AppendStep i s t) : EngineStep s t
  /-- The F7 finish (R125, R134). -/
  | finish (h : s.ph = .f7d ∨ s.ph = .f7e) (hend : s.ilen ≤ s.cur) : EngineStep s (s.finishWith s.olen)

section
variable {s u : State}

theorem engineStep_hsq (hf : fetch s = fetchHsq u) (hp : u.ph = .hsq) : ∃ t, step s = .next t ∧ EngineStep u t := by
  rcases fetchHsq_cases u with ⟨i, p, hd, he⟩ | ⟨e, hd, he⟩ <;> rw [he] at hf
  · rw [step_of_run hf]
    rcases (hsqMeets_cases (decodeHsq_meets hd)).2 with ha | rfl | ⟨field, rfl⟩
    · obtain ⟨t, hx, ht⟩ := exec_appends ha (u.withPos p)
      exact ⟨t, hx, .command hp hd ha ht⟩
    · exact ⟨_, rfl, .stop hp hd rfl⟩
    · exact ⟨_, rfl, .stop hp hd rfl⟩
  · exact ⟨_, step_of_moved hf, .truncated hp hd⟩

theorem engineStep_element {i : Instr} (hf : fetch s = .run i u)
    (h : u.ph = .f7d ∧ decodeF7 u.buffer u.cur = some i ∨ u.ph = .f7e ∧ selectF7 u.buffer u.cur = some i)
    (hi : ElementAt u.buffer u.cur i) : ∃ t, step s = .next t ∧ EngineStep u t := by
  obtain ⟨t, hx, ht⟩ := exec_appends hi.appends u
  exact ⟨t, (step_of_run hf).trans hx, .element h hi ht⟩

theorem engineStep_f7d (hf : fetch s = fetchF7d u) (hp : u.ph = .f7d) : ∃ t, step s = .next t ∧ EngineStep u t := by
  rw [fetchF7d] at hf
  by_cases hend : u.ilen ≤ u.cur
  · rw [decodeF7_end hend] at hf
    exact ⟨_, step_of_moved hf, .finish (.inl hp) hend⟩
  · obtain ⟨i, hd, hi⟩ := decodeF7_element (d := u.buffer) (Nat.lt_of_not_le hend)
    rw [hd] at hf
    exact engineStep_element hf (.inl ⟨hp, hd⟩) hi

theorem engineStep_f7e (hf : fetch s = fetchF7e u) (hp : u.ph = .f7e) : ∃ t, step s = .next t ∧ EngineStep u t := by
  rw [fetchF7e] at hf
  by_cases hend : u.ilen ≤ u.cur
  · rw [selectF7_end hend] at hf
    exact ⟨_, step_of_moved hf, .finish (.inr hp) hend⟩
  · obtain ⟨i, hd, hi⟩ := selectF7_element (d := u.buffer) (Nat.lt_of_not_le hend)
    rw [hd] at hf
    exact engineStep_element hf (.inr ⟨hp, hd⟩) hi

theorem engineStep_of_fetch (hf : fetch s = engineTurn u) : ∃ t, step s = .next t ∧ EngineStep u t := by
  rw [engineTurn] at hf
  cases hp : u.ph <;> rw [hp] at hf
  case idle => exact ⟨u, step_of_moved hf, .wait (.inl hp)⟩
  case done => exact ⟨u, step_of_moved hf, .wait (.inr (.inl hp))⟩
  case fault => exact ⟨u, step_of_moved hf, .wait (.inr (.inr hp))⟩
  case hdr => exact ⟨_, step_of_moved hf, .header hp⟩
  case hsq => exact engineStep_hsq hf hp
  case f7d => exact engineStep_f7d hf hp
  case f7e => exact engineStep_f7e hf hp

end

/-- The state once the move at the head of `inputs` is taken. -/
def State.afterMove (s : State) : State := { s with inputs := s.inputs.tail }

theorem State.afterMove_of_cons {s : State} {e : Input} {rest : List Input} (h : s.inputs = e :: rest) :
    s.afterMove = { s with inputs := rest } := by
  simp only [State.afterMove, h, List.tail_cons]

theorem fetch_engineMoves {s : State} (h : engineMoves s) : fetch s = engineTurn s.afterMove := by
  rcases h with hq | ⟨rest, hq⟩
  · rw [fetch_nil hq, State.afterMove, hq, List.tail_nil, ← hq]
  · rw [fetch_cons hq, State.afterMove_of_cons hq, hostTurn]

/-- The engine's step is always a next state. -/
theorem engine_step {s : State} (h : engineMoves s) : ∃ t, step s = .next t ∧ EngineStep s.afterMove t :=
  engineStep_of_fetch (fetch_engineMoves h)

/-! ### Moves of the outside world -/

/-- The offset of a register (10_state.md section 4). -/
def Reg.offset : Reg → Nat
  | .ctrl => 0x00
  | .status => 0x04
  | .ilen => 0x08
  | .rlen => 0x0C
  | .cause => 0x10
  | .faddr => 0x14
  | .finfo => 0x18
  | .dsize => 0x1C
  | .csize => 0x20
  | .csum => 0x24
  | .cur => 0x28
  | .olen => 0x2C
  | .q => 0x30

theorem regAt_offset (r : Reg) : regAt r.offset = some r := by
  cases r <;> rfl

theorem eq_offset_of_regAt {offset : Nat} {r : Reg} (h : regAt offset = some r) : offset = r.offset := by
  unfold regAt at h
  split at h <;> cases h <;> rfl

/-- An access to a register offset stops the model or finds the register there. -/
theorem atReg_cases (offset : Nat) (f : Reg → Action) :
    (∃ r : Reg, offset = r.offset ∧ atReg offset f = f r) ∨ atReg offset f = .stop .noSuchRegister := by
  unfold atReg
  cases h : regAt offset with
  | none => exact .inr rfl
  | some r => exact .inl ⟨r, eq_offset_of_regAt h, rfl⟩

theorem atReg_offset (r : Reg) (f : Reg → Action) : atReg r.offset f = f r := by
  simp only [atReg, regAt_offset]

theorem atIndex_of_lt {a cap : Nat} {x : Action} (h : a < cap) : atIndex a cap x = x := if_pos h

/-- What a CTRL write does (R16): START wins over CLEAR, and with neither OP is stored. -/
def State.ctrlWrite (s : State) (v : Word) : State :=
  if v.getLsbD 8 then s.start (ctrlOpOf v)
  else if v.getLsbD 9 then s.clear (ctrlOpOf v)
  else s.storeOp (ctrlOpOf v)

/-- What an ILEN write does (R18, R24). -/
def State.ilenWrite (s : State) (v : Word) : State := if s.busy then s else { s with ilen := v.toNat }

section
variable {s : State} {e : Input} {rest : List Input}

/-- A move of the outside world that is a move of the machine's own. -/
theorem step_of_hostTurn {t : State} (h : s.inputs = e :: rest) (ht : hostTurn { s with inputs := rest } e = .moved t) :
    step s = .next t := step_of_moved ((fetch_cons h).trans ht)

theorem exec_startOf (op : OpCode) (s : State) : exec (startOf op) s = .next (s.start op) := by
  cases op <;> rfl

theorem step_ctrlWrite {v : Word} (h : s.inputs = .writeReg 0x00 v :: rest) :
    step s = .next (State.ctrlWrite { s with inputs := rest } v) := by
  have hf : fetch s = hostWrite { s with inputs := rest } .ctrl v := fetch_cons h
  rw [hostWrite, decodeCtrl] at hf
  rw [State.ctrlWrite]
  by_cases h8 : v.getLsbD 8 = true
  · rw [if_pos h8] at hf ⊢
    rw [step_of_run hf, exec_startOf]
  · rw [if_neg h8] at hf ⊢
    by_cases h9 : v.getLsbD 9 = true
    · rw [if_pos h9] at hf ⊢
      rw [step_of_run hf]
      rfl
    · rw [if_neg h9] at hf ⊢
      rw [step_of_moved hf]

theorem step_ilenWrite {v : Word} (h : s.inputs = .writeReg 0x08 v :: rest) :
    step s = .next (State.ilenWrite { s with inputs := rest } v) :=
  step_of_hostTurn h rfl

theorem step_readReg {r : Reg} (h : s.inputs = .readReg r.offset :: rest) :
    step s = .next (hostRead { s with inputs := rest } r) :=
  step_of_hostTurn h (atReg_offset r _)

theorem step_writeIn {a : Nat} {b : Byte} (h : s.inputs = .writeIn a b :: rest) (ha : a < s.params.inCap) :
    step s = .next (hostWriteIn { s with inputs := rest } a b) :=
  step_of_hostTurn h (atIndex_of_lt ha)

theorem step_readIn {a : Nat} (h : s.inputs = .readIn a :: rest) (ha : a < s.params.inCap) :
    step s = .next (hostReadIn { s with inputs := rest } a) :=
  step_of_hostTurn h (atIndex_of_lt ha)

theorem step_readOut {a : Nat} (h : s.inputs = .readOut a :: rest) (ha : a < s.params.outCap) :
    step s = .next (hostReadOut { s with inputs := rest } a) :=
  step_of_hostTurn h (atIndex_of_lt ha)

theorem step_reset (h : s.inputs = .reset :: rest) : step s = .next (State.hardReset { s with inputs := rest }) :=
  step_of_hostTurn h rfl

/-- A write to a read-only place takes the move and nothing else (R24). -/
theorem step_writesReadOnly (hw : writesReadOnly s e) (h : s.inputs = e :: rest) :
    step s = .next { s with inputs := rest } := by
  rcases hw with ⟨offset, v, rfl, ho⟩ | ⟨a, b, rfl, ha⟩
  · simp only [List.mem_cons, List.not_mem_nil, or_false] at ho
    rcases ho with rfl | rfl | rfl | rfl | rfl | rfl | rfl | rfl | rfl | rfl | rfl <;> exact step_of_hostTurn h rfl
  · exact step_of_hostTurn h (atIndex_of_lt ha)

end

/-- Everything a move of the outside world other than `pass` can do, from the state with the move taken. -/
inductive HostStep (s : State) : Input → State → Prop
  | ctrl (v : Word) : HostStep s (.writeReg 0x00 v) (s.ctrlWrite v)
  | ilen (v : Word) : HostStep s (.writeReg 0x08 v) (s.ilenWrite v)
  | readOnly {e : Input} (h : writesReadOnly s e) : HostStep s e s
  | readReg (r : Reg) : HostStep s (.readReg r.offset) (hostRead s r)
  | writeIn {a : Nat} (b : Byte) (h : a < s.params.inCap) : HostStep s (.writeIn a b) (hostWriteIn s a b)
  | readIn {a : Nat} : HostStep s (.readIn a) (hostReadIn s a)
  | readOut {a : Nat} : HostStep s (.readOut a) (hostReadOut s a)
  | reset : HostStep s .reset s.hardReset

/-- A register other than CTRL and ILEN is read-only (R24). -/
theorem writesReadOnly_reg (s : State) {r : Reg} (v : Word) (hc : r ≠ .ctrl) (hi : r ≠ .ilen) :
    writesReadOnly s (.writeReg r.offset v) :=
  .inl ⟨_, v, rfl, by revert hc hi; cases r <;> decide⟩

/-- An access to a memory index stops the model or finds the index there. -/
theorem atIndex_cases {a cap : Nat} {x : Action} :
    a < cap ∧ atIndex a cap x = x ∨ atIndex a cap x = .stop .noSuchAddress := by
  unfold atIndex
  split
  · next h => exact .inl ⟨h, rfl⟩
  · exact .inr rfl

theorem next_unique {s t u : State} (hu : step s = .next u) (ht : step s = .next t) : u = t :=
  Host.Outcome.next.inj (hu.symm.trans ht)

/-- A move whose access finds nothing there has no next state. -/
theorem not_next_of_stop {s t : State} {e : Input} {rest : List Input} {f : Fault} (hs : s.inputs = e :: rest)
    (hf : hostTurn { s with inputs := rest } e = .stop f) (h : step s = .next t) : False :=
  nomatch (step_of_stop ((fetch_cons hs).trans hf)).symm.trans h

theorem host_step {s t : State} {e : Input} {rest : List Input} (hs : s.inputs = e :: rest) (he : e ≠ .pass)
    (h : step s = .next t) : HostStep { s with inputs := rest } e t := by
  cases e with
  | pass => exact absurd rfl he
  | writeReg offset v =>
    rcases atReg_cases offset (fun r => hostWrite { s with inputs := rest } r v) with ⟨r, rfl, -⟩ | hf
    · by_cases hc : r = .ctrl
      · subst hc
        exact next_unique (step_ctrlWrite hs) h ▸ .ctrl v
      · by_cases hi : r = .ilen
        · subst hi
          exact next_unique (step_ilenWrite hs) h ▸ .ilen v
        · have hw := writesReadOnly_reg s v hc hi
          exact next_unique (step_writesReadOnly hw hs) h ▸ .readOnly hw
    · exact (not_next_of_stop hs hf h).elim
  | readReg offset =>
    rcases atReg_cases offset (fun r => .moved (hostRead { s with inputs := rest } r)) with ⟨r, rfl, -⟩ | hf
    · exact next_unique (step_readReg hs) h ▸ .readReg r
    · exact (not_next_of_stop hs hf h).elim
  | writeIn a b =>
    rcases atIndex_cases with ⟨ha, -⟩ | hf
    · exact next_unique (step_writeIn hs ha) h ▸ .writeIn b ha
    · exact (not_next_of_stop hs hf h).elim
  | readIn a =>
    rcases atIndex_cases with ⟨ha, -⟩ | hf
    · exact next_unique (step_readIn hs ha) h ▸ .readIn
    · exact (not_next_of_stop hs hf h).elim
  | writeOut a b =>
    rcases atIndex_cases with ⟨ha, -⟩ | hf
    · have hw : writesReadOnly s (.writeOut a b) := .inr ⟨a, b, rfl, ha⟩
      exact next_unique (step_writesReadOnly hw hs) h ▸ .readOnly hw
    · exact (not_next_of_stop hs hf h).elim
  | readOut a =>
    rcases atIndex_cases with ⟨ha, -⟩ | hf
    · exact next_unique (step_readOut hs ha) h ▸ .readOut
    · exact (not_next_of_stop hs hf h).elim
  | reset => exact next_unique (step_reset hs) h ▸ .reset

/-- Every step is the engine's own or a move of the outside world. -/
theorem step_cases {s t : State} (h : step s = .next t) :
    engineMoves s ∧ EngineStep s.afterMove t ∨ ∃ e, HostStep s.afterMove e t := by
  have hengine : engineMoves s → engineMoves s ∧ EngineStep s.afterMove t := fun hm => by
    obtain ⟨u, hu, hstep⟩ := engine_step hm
    exact ⟨hm, next_unique hu h ▸ hstep⟩
  cases hs : s.inputs with
  | nil => exact .inl (hengine (.inl hs))
  | cons e rest =>
    by_cases he : e = .pass
    · subst he
      exact .inl (hengine (.inr ⟨rest, hs⟩))
    · exact .inr ⟨e, State.afterMove_of_cons hs ▸ host_step hs he h⟩

end Sys2Proof.Machine
end

section
/-! PROOFS. What the steps leave alone: the engine its input, every step the parameters, a host access the engine. -/

namespace Sys2Proof.Machine

open Sys2Proof.Safety

/-! ### The input -/

/-- The same input and the same parameters: ILEN, the memory IN with its unspecified contents, IN_CAP and OUT_CAP. -/
structure KeepsInput (s t : State) : Prop where
  params : t.params = s.params
  ilen : t.ilen = s.ilen
  inMem : t.inMem = s.inMem
  inGen : t.inGen = s.inGen

theorem KeepsInput.inByte {s t : State} (h : KeepsInput s t) (a : Nat) : t.inByte a = s.inByte a := by
  simp only [State.inByte, h.inMem, h.inGen]

theorem keepsInput_raise (s : State) (x : Cause) (addr info : Nat) : KeepsInput s (s.raise x addr info) :=
  ⟨rfl, rfl, rfl, rfl⟩

theorem AppendStep.keepsInput {i : Instr} {s t : State} (h : AppendStep i s t) : KeepsInput s t := by
  cases h with
  | fits vs => exact ⟨s.pushList_params vs, s.pushList_ilen vs, s.pushList_inMem vs, s.pushList_inGen vs⟩
  | badReference | noRoom => exact keepsInput_raise ..

theorem keepsInput_hsqFinish (s : State) (r : StopReason) : KeepsInput s (s.hsqFinish r) := by
  rcases s.hsqFinish_cases r with ⟨-, e⟩ | ⟨-, e⟩ <;> rw [e]
  · exact ⟨rfl, rfl, rfl, rfl⟩
  · exact keepsInput_raise ..

theorem keepsInput_hdrStep (s : State) : KeepsInput s s.hdrStep := by
  rcases s.hdrStep_cases with ⟨-, e⟩ | ⟨-, -, e⟩ | ⟨-, -, e⟩ <;> rw [e]
  · exact keepsInput_raise ..
  · exact ⟨rfl, rfl, rfl, rfl⟩
  · exact ⟨rfl, rfl, rfl, rfl⟩

/-- The engine reads its input and never writes it (R25, R52, R55). -/
theorem EngineStep.keepsInput {s t : State} (h : EngineStep s t) : KeepsInput s t := by
  cases h with
  | wait => exact ⟨rfl, rfl, rfl, rfl⟩
  | header => exact keepsInput_hdrStep s
  | truncated => exact keepsInput_raise ..
  | command _ _ _ ht =>
    obtain ⟨hp, hl, hm, hg⟩ := ht.keepsInput
    exact ⟨hp, hl, hm, hg⟩
  | stop =>
    obtain ⟨hp, hl, hm, hg⟩ := keepsInput_hsqFinish (s.withPos _) _
    exact ⟨hp, hl, hm, hg⟩
  | element _ _ ht => exact ht.keepsInput
  | finish => exact ⟨rfl, rfl, rfl, rfl⟩

/-! ### Host accesses -/

theorem State.start_params (s : State) (op : OpCode) : (s.start op).params = s.params := by
  rcases s.start_cases op with ⟨-, e⟩ | ⟨-, -, e⟩ | ⟨-, -, e⟩ <;> rw [e] <;> rfl

/-- The store of OP leaves everything else (R16). -/
theorem State.storeOp_eq (s : State) (op : OpCode) : s.storeOp op = { s with ctrlOp := (s.storeOp op).ctrlOp } := by
  unfold State.storeOp
  split <;> rfl

/-- CLEAR returns from DONE and FAULT to IDLE, and elsewhere is the store of OP alone (R145). -/
theorem State.clear_cases (s : State) (op : OpCode) :
    (s.ph = .done ∨ s.ph = .fault) ∧ s.clear op = (s.storeOp op).clearResult ∨
    ¬ (s.ph = .done ∨ s.ph = .fault) ∧ s.clear op = s.storeOp op := by
  by_cases h : s.ph = .done ∨ s.ph = .fault
  · exact .inl ⟨h, if_pos h⟩
  · exact .inr ⟨h, if_neg h⟩

/-- A CTRL write starts, clears or stores OP. -/
theorem State.ctrlWrite_cases (s : State) (v : Word) :
    v.getLsbD 8 = true ∧ s.ctrlWrite v = s.start (ctrlOpOf v) ∨
    v.getLsbD 8 = false ∧ v.getLsbD 9 = true ∧ s.ctrlWrite v = s.clear (ctrlOpOf v) ∨
    v.getLsbD 8 = false ∧ v.getLsbD 9 = false ∧ s.ctrlWrite v = s.storeOp (ctrlOpOf v) := by
  unfold State.ctrlWrite
  cases v.getLsbD 8 with
  | true => exact .inl ⟨rfl, rfl⟩
  | false =>
    cases v.getLsbD 9 with
    | true => exact .inr (.inl ⟨rfl, rfl, rfl⟩)
    | false => exact .inr (.inr ⟨rfl, rfl, rfl⟩)

theorem State.storeOp_params (s : State) (op : OpCode) : (s.storeOp op).params = s.params := by
  rw [State.storeOp_eq]

theorem State.clear_params (s : State) (op : OpCode) : (s.clear op).params = s.params := by
  rcases s.clear_cases op with ⟨-, e⟩ | ⟨-, e⟩ <;> rw [e]
  · exact s.storeOp_params op
  · exact s.storeOp_params op

theorem State.ctrlWrite_params (s : State) (v : Word) : (s.ctrlWrite v).params = s.params := by
  rcases s.ctrlWrite_cases v with ⟨-, e⟩ | ⟨-, -, e⟩ | ⟨-, -, e⟩ <;> rw [e]
  · exact s.start_params _
  · exact s.clear_params _
  · exact s.storeOp_params _

theorem hostRead_frame (s : State) (r : Reg) :
    hostRead s r = { s with rdata := (hostRead s r).rdata, draws := (hostRead s r).draws } := by
  unfold hostRead
  split <;> rfl

theorem hostReadIn_frame (s : State) (a : Nat) :
    hostReadIn s a = { s with rdata := (hostReadIn s a).rdata, draws := (hostReadIn s a).draws } := by
  unfold hostReadIn
  split <;> rfl

theorem hostReadOut_frame (s : State) (a : Nat) :
    hostReadOut s a = { s with rdata := (hostReadOut s a).rdata, draws := (hostReadOut s a).draws } := by
  unfold hostReadOut
  split <;> rfl

theorem ilenWrite_frame (s : State) (v : Word) : s.ilenWrite v = { s with ilen := (s.ilenWrite v).ilen } := by
  unfold State.ilenWrite
  split <;> rfl

theorem State.ilenWrite_of_not_busy {s : State} (v : Word) (h : s.busy = false) :
    s.ilenWrite v = { s with ilen := v.toNat } := by
  rw [State.ilenWrite, h, if_neg Bool.false_ne_true]

theorem hostWriteIn_of_not_busy {s : State} (a : Nat) (b : Byte) (h : s.busy = false) :
    hostWriteIn s a b = { s with inMem := Mem.set s.inMem a b } := by
  rw [hostWriteIn, h, if_neg Bool.false_ne_true]

theorem hostWriteIn_frame (s : State) (a : Nat) (b : Byte) :
    hostWriteIn s a b = { s with inMem := (hostWriteIn s a b).inMem } := by
  unfold hostWriteIn
  split <;> rfl

/-- A host access other than a CTRL write touches ILEN, IN and the model's own fields only (R24). -/
theorem HostStep.frame {s t : State} {e : Input} (h : HostStep s e t) (hr : e ≠ .reset)
    (hc : ∀ v, e ≠ .writeReg 0x00 v) :
    t = { s with ilen := t.ilen, inMem := t.inMem, rdata := t.rdata, draws := t.draws } := by
  cases h with
  | ctrl v => exact absurd rfl (hc v)
  | ilen v => rw [ilenWrite_frame]
  | readOnly => rfl
  | readReg r => rw [hostRead_frame]
  | writeIn b => rw [hostWriteIn_frame]
  | readIn => rw [hostReadIn_frame]
  | readOut => rw [hostReadOut_frame]
  | reset => exact absurd rfl hr

theorem HostStep.params {s t : State} {e : Input} (h : HostStep s e t) : t.params = s.params := by
  cases h with
  | ctrl v => exact s.ctrlWrite_params v
  | ilen v => rw [ilenWrite_frame]
  | readOnly => rfl
  | readReg r => rw [hostRead_frame]
  | writeIn b => rw [hostWriteIn_frame]
  | readIn => rw [hostReadIn_frame]
  | readOut => rw [hostReadOut_frame]
  | reset => rfl

end Sys2Proof.Machine

namespace Sys2Proof.Proofs

open Sys2Proof.Machine Sys2Proof.Safety

/-- Settles O42: the engine's step keeps its whole input, and a move of the outside world the parameters. -/
theorem engineNeverWritesItsInput : Obligations.EngineNeverWritesItsInput := by
  refine ⟨fun s t hm h => ?_, fun s t h => ?_⟩
  · obtain ⟨u, hu, hstep⟩ := engine_step hm
    have hkeep := next_unique hu h ▸ hstep.keepsInput
    exact ⟨hkeep.ilen, hkeep.inByte⟩
  · rcases step_cases h with ⟨-, hstep⟩ | ⟨e, hstep⟩
    · exact hstep.keepsInput.params
    · exact hstep.params

/-- Settles O54: every read-only place answers a write by the move taken and nothing else. -/
theorem hostWritesToReadOnlyPlacesAreIgnored : Obligations.HostWritesToReadOnlyPlacesAreIgnored :=
  fun _ _ _ hw h => step_writesReadOnly hw h

/-- Settles O45: the host's read of OUT is delivered from the memory in DONE below RLEN only. -/
theorem hostReadsTheResultOnly : Obligations.HostReadsTheResultOnly := by
  refine ⟨fun s a rest hdone hlt ha h => ?_, fun s a rest hfree ha h => ?_⟩
  · rw [step_readOut h ha, hostReadOut, if_pos ⟨hdone, hlt⟩]
    rfl
  · have hno : ¬ (s.ph = .done ∧ a < s.rlen) := fun ⟨hdone, hlt⟩ => hfree.elim (· hdone) (Nat.not_le_of_lt hlt)
    rw [step_readOut h ha, hostReadOut, if_neg hno]
    rfl

/-- Settles O46: outside BUSY the write is made, and a memory reads back what is written and nothing else changed. -/
theorem hostLoadsTheInput : Obligations.HostLoadsTheInput := by
  refine ⟨fun s v rest hb h => (step_ilenWrite h).trans (congrArg _ (State.ilenWrite_of_not_busy v hb)),
    fun s a b rest hb ha h => ?_⟩
  refine ⟨_, (step_writeIn h ha).trans (congrArg _ (hostWriteIn_of_not_busy a b hb)), rfl, ?_, fun x hx => ?_⟩
  · simp only [State.inByte, Mem.get_set_same, Option.getD_some]
  · simp only [State.inByte, Mem.get_set_other _ _ hx]

end Sys2Proof.Proofs
end

section
/-! PROOFS. The host's side of the register block: the fields of a CTRL write, and the number each register reads as. -/

namespace Sys2Proof

@[simp] theorem OpCode.ofBits_bits (op : OpCode) : OpCode.ofBits op.bits = op := by
  cases op <;> rfl

@[simp] theorem OpCode.bits_ofBits (b : BitVec 2) : (OpCode.ofBits b).bits = b := by
  revert b; decide

theorem ctrlOpOf_eq {v : Word} {op : OpCode} (h : v.setWidth 2 = op.bits) : ctrlOpOf v = op := by
  rw [ctrlOpOf, h, OpCode.ofBits_bits]

/-- CTRL.OP of a written value, as a number (R16). -/
theorem ctrlOpOf_toNat (v : Word) : (ctrlOpOf v).bits.toNat = v.toNat % 4 := by
  rw [ctrlOpOf, OpCode.bits_ofBits, BitVec.toNat_setWidth]

end Sys2Proof

namespace Sys2Proof.Machine

open Sys2Proof.Safety

/-- A field of a register above the fields below it, as numbers. -/
theorem toNat_field_append {m n : Nat} (x : BitVec m) (y : BitVec n) :
    (x ++ y).toNat = 2 ^ n * x.toNat + y.toNat := by
  rw [BitVec.toNat_append, Nat.shiftLeft_eq, Nat.mul_comm, ← Nat.two_pow_add_eq_or_of_lt y.isLt]

/-- STATUS by its fields (R17). -/
theorem State.status_toNat (s : State) :
    s.status.toNat = s.ph.stateCode.toNat + 4 * s.stopr.code.toNat + 16 * s.sigok.toNat + 32 * s.ovr.toNat := by
  rw [State.status, BitVec.toNat_setWidth_of_le (by decide)]
  simp only [toNat_field_append, BitVec.toNat_ofBool]
  omega

/-- A specified host read of a register returns its value and changes nothing else (R23, R24). -/
theorem reads_register {s : State} {n : Nat} (r : Reg) (hr : s.readable r = true) (hv : (s.regValue r).toNat = n) :
    reads s r.offset n := by
  intro rest h
  refine ⟨_, step_readReg h, ?_⟩
  rw [hostRead, if_pos (show State.readable { s with inputs := rest } r = true from hr)]
  exact ⟨rfl, hv⟩

theorem State.readable_of_settled {s : State} {r : Reg} (h : settled s)
    (hr : r ≠ .cur ∧ r ≠ .olen ∧ r ≠ .q) : s.readable r = true := by
  have hb : (!s.busy) = true := by rw [(settled_iff s).mp h, Bool.not_false]
  cases r with
  | status => rfl
  | ctrl | ilen | rlen | cause | faddr | finfo | dsize | csize | csum => exact hb
  | cur | olen | q => simp at hr

/-- CUR, OLEN and Q are specified in IDLE and DONE (R23). -/
theorem State.readable_of_idle_or_done {s : State} (r : Reg) (h : s.ph = .idle ∨ s.ph = .done) :
    s.readable r = true := by
  rcases h with h | h <;> cases r <;> simp [State.readable, State.busy, h]

/-- A host read of IN outside BUSY delivers its byte (R25). -/
theorem step_readIn_settled {s : State} {a : Nat} {rest : List Input} (hs : settled s) (ha : a < s.params.inCap)
    (h : s.inputs = .readIn a :: rest) :
    step s = .next { s with inputs := rest, rdata := (s.inByte a).setWidth 32 } := by
  have hb : State.busy { s with inputs := rest } = false := (settled_iff s).mp hs
  rw [step_readIn h ha, hostReadIn, hb, if_neg Bool.false_ne_true]
  rfl

/-- No host read changes the engine (R24). -/
theorem HostStep.read_frame {s t : State} {e : Input} (h : HostStep s e t)
    (he : (∃ offset, e = .readReg offset) ∨ (∃ a, e = .readIn a) ∨ ∃ a, e = .readOut a) :
    t = { s with rdata := t.rdata, draws := t.draws } := by
  cases h with
  | readReg r => exact hostRead_frame s r
  | readIn => exact hostReadIn_frame s _
  | readOut => exact hostReadOut_frame s _
  | ctrl | ilen | writeIn | reset => simp at he
  | readOnly hw =>
    rcases hw with ⟨offset, v, rfl, -⟩ | ⟨a, b, rfl, -⟩ <;> simp at he

end Sys2Proof.Machine

namespace Sys2Proof.Proofs

open Sys2Proof.Machine Sys2Proof.Safety

/-- Settles O19: the fields of the value written decide what the write runs. -/
theorem ctrlWriteMeansItsFields : Obligations.CtrlWriteMeansItsFields := by
  refine ⟨fun v op h8 hop => ?_, fun v op h8 h9 hop => ?_, fun s v op rest h8 h9 hop h => ?_, fun op => ?_⟩
  · rw [decodeCtrl, if_pos h8, ctrlOpOf_eq hop]
  · rw [decodeCtrl, h8, if_neg Bool.false_ne_true, if_pos h9, ctrlOpOf_eq hop]
  · rw [step_ctrlWrite h, State.ctrlWrite, h8, h9, ctrlOpOf_eq hop]
    rfl
  · cases op <;> decide

/-- Settles O44: each register is specified where its rule says so, and its value is its field's number. -/
theorem hostReadsAreExactWhereSpecified : Obligations.HostReadsAreExactWhereSpecified := by
  refine ⟨fun s => reads_register .status rfl ?_, fun s hs => ?_, fun s hs => ?_,
    fun s a rest hs ha h => step_readIn_settled hs ha h, fun s t e rest he hi h => ?_⟩
  · rw [State.regValue, State.status_toNat]
    refine congrArg₂ _ (congrArg₂ _ (congrArg₂ _ ?_ (congrArg _ ?_)) (congrArg _ ?_)) (congrArg _ ?_)
    · cases s.ph <;> rfl
    · cases s.stopr <;> rfl
    · cases s.sigok <;> rfl
    · cases s.ovr <;> rfl
  · have hread : ∀ r, r ≠ .cur ∧ r ≠ .olen ∧ r ≠ .q → s.readable r = true := fun r => State.readable_of_settled hs
    refine ⟨reads_register .ctrl (hread _ (by decide)) ?_,
      reads_register .ilen (hread _ (by decide)) (BitVec.toNat_ofNat ..),
      reads_register .rlen (hread _ (by decide)) (BitVec.toNat_ofNat ..),
      reads_register .cause (hread _ (by decide)) ?_,
      reads_register .faddr (hread _ (by decide)) (BitVec.toNat_ofNat ..),
      reads_register .finfo (hread _ (by decide)) (BitVec.toNat_ofNat ..),
      reads_register .dsize (hread _ (by decide)) (BitVec.toNat_setWidth_of_le (by decide)),
      reads_register .csize (hread _ (by decide)) (BitVec.toNat_setWidth_of_le (by decide)),
      reads_register .csum (hread _ (by decide)) (BitVec.toNat_setWidth_of_le (by decide))⟩
    · rw [State.regValue, State.ctrl]
      cases s.ctrlOp <;> rfl
    · rw [State.regValue]
      cases s.cause <;> rfl
  · have hread := fun r => State.readable_of_idle_or_done (s := s) r hs
    exact ⟨reads_register .cur (hread _) (BitVec.toNat_ofNat ..), reads_register .olen (hread _) (BitVec.toNat_ofNat ..),
      reads_register .q (hread _) (BitVec.toNat_setWidth_of_le (by decide))⟩
  · refine (host_step hi ?_ h).read_frame he
    rintro rfl
    simp at he

end Sys2Proof.Proofs
end

section
/-! PROOFS. The engine invariant: it holds at reset, each operation on the state keeps it, and so does every step. -/

namespace Sys2Proof.Machine

open Sys2Proof.Safety

theorem distance_le (i : Instr) : distance i ≤ 8192 := by
  cases i with
  | long field | longx field => exact Nat.sub_le _ _
  | short _ b => exact (Nat.sub_le 256 _).trans (by decide)
  | lit | litStop | eof | esc | run | byte | tail | erun | eesc | ebyte | hsqDec | hsqSizes | f7Dec | f7Enc | clear =>
    exact Nat.zero_le _

end Sys2Proof.Machine

namespace Sys2Proof.Safety

open Sys2Proof.Machine

/-- The phases in which an operation runs command by command or element by element (R101, R120, R130). -/
def inLoop (s : State) : Prop := s.ph = .hsq ∨ s.ph = .f7d ∨ s.ph = .f7e

theorem inLoop.busy {s : State} (hloop : inLoop s) : s.busy = true := (State.busy_iff s).mpr (.inr hloop)

theorem inLoop.phase_ne {s : State} (hloop : inLoop s) : s.ph ≠ .hdr ∧ s.ph ≠ .done ∧ s.ph ≠ .idle := by
  rcases hloop with hp | hp | hp <;> rw [hp] <;> decide

namespace EngineInv

/-- The registers of R28 and legal parameters. -/
theorem at_reset {p : Config.Params} (hp : p.legal) : EngineInv { State.reset with params := p } where
  legal := hp
  inCanonical := rfl
  inWithin := rfl
  outCanonical := rfl
  outWithin := rfl
  cur32 := Nat.two_pow_pos 32
  olen32 := Nat.two_pow_pos 32
  ilen32 := Nat.two_pow_pos 32
  rlen32 := Nat.two_pow_pos 32
  faddr32 := Nat.two_pow_pos 32
  finfo32 := Nat.two_pow_pos 32
  inputFits := nofun
  cursorFits := nofun
  outputFits _ := Nat.zero_le _
  written _ := nofun
  phase := rfl
  hdrStart := nofun
  hsqStart := nofun
  queueEmpty _ := rfl
  latchesEmpty _ := ⟨rfl, rfl, rfl⟩
  causeFault := iff_of_false (fun hc => hc rfl) nofun
  recordEmpty _ := ⟨rfl, rfl⟩
  resultEmpty _ := ⟨rfl, rfl, rfl⟩
  resultThere := nofun
  exactLength := nofun
  signature h := absurd rfl h

variable {s : State}

/-- CTRL.OP and the model's own fields are free. -/
theorem congr_own (h : EngineInv s) (op : OpCode) (inputs : List Input) (rdata : Word) (draws inGen outGen : Nat) :
    EngineInv { s with
      ctrlOp := op, inputs := inputs, rdata := rdata, draws := draws, inGen := inGen, outGen := outGen } :=
  { h with }

theorem afterMove (h : EngineInv s) : EngineInv s.afterMove := h.congr_own ..

theorem storeOp (h : EngineInv s) (op : OpCode) : EngineInv (s.storeOp op) := by
  rw [State.storeOp_eq]
  exact h.congr_own ..

theorem hardReset (h : EngineInv s) : EngineInv s.hardReset := (at_reset h.legal).congr_own ..

/-! ### Endings -/

/-- In FAULT the record is that of the fault, and nothing of a running or completed operation is claimed. -/
theorem raise (h : EngineInv s) {x : Cause} {addr info : Nat} (hx : x ≠ .noFault) (haddr : addr < 2 ^ 32)
    (hinfo : info < 2 ^ 32) (hsig : s.sigok = signatureOk s.csum) : EngineInv (s.raise x addr info) :=
  { h with
    outCanonical := rfl
    outWithin := rfl
    cur32 := (Config.freeCur s.draws).isLt
    olen32 := (Config.freeOlen s.draws).isLt
    rlen32 := Nat.two_pow_pos 32
    faddr32 := haddr
    finfo32 := hinfo
    inputFits := nofun
    cursorFits := nofun
    outputFits := nofun
    written := nofun
    phase := rfl
    hdrStart := nofun
    hsqStart := nofun
    queueEmpty := nofun
    latchesEmpty := nofun
    causeFault := iff_of_true hx rfl
    recordEmpty := fun hp => absurd rfl hp
    resultEmpty := fun _ => ⟨rfl, rfl, rfl⟩
    resultThere := nofun
    exactLength := nofun
    signature := fun _ => hsig }

/-- In DONE the result is a part of the output written. -/
theorem complete (h : EngineInv s) (hb : s.busy = true) {n : Nat} {stopr : StopReason} {ovr : Bool} (hn : n ≤ s.olen)
    (hstop : stopr ≠ .nothing)
    (hexact : s.opl = .hsqDec → n = s.dsize.toNat ∧ ovr = decide (s.olen > s.dsize.toNat)) :
    EngineInv { s with rlen := n, stopr := stopr, ovr := ovr, ph := .done } :=
  have hfault : s.ph ≠ .fault := fun hp => by simp [State.busy, hp] at hb
  have hidle : s.ph ≠ .idle := fun hp => by simp [State.busy, hp] at hb
  { h with
    rlen32 := Nat.lt_of_le_of_lt hn h.olen32
    inputFits := nofun
    cursorFits := nofun
    outputFits := fun _ => h.outputFits (.inl hb)
    written := fun _ => h.written (.inl hb)
    phase := rfl
    hdrStart := nofun
    hsqStart := nofun
    queueEmpty := nofun
    latchesEmpty := nofun
    causeFault := iff_of_false (mt h.causeFault.mp hfault) nofun
    recordEmpty := fun _ => h.recordEmpty hfault
    resultEmpty := fun hp => absurd rfl hp
    resultThere := fun _ => ⟨hn, hstop⟩
    exactLength := fun _ => hexact
    signature := fun _ => h.signature hidle }

/-- CLEAR leaves an empty record and no result (R145). -/
theorem clearResult (h : EngineInv s) : EngineInv s.clearResult :=
  { h with
    rlen32 := Nat.two_pow_pos 32
    faddr32 := Nat.two_pow_pos 32
    finfo32 := Nat.two_pow_pos 32
    inputFits := nofun
    cursorFits := nofun
    outputFits := nofun
    written := nofun
    phase := rfl
    hdrStart := nofun
    hsqStart := nofun
    queueEmpty := nofun
    latchesEmpty := nofun
    causeFault := iff_of_false (fun hc => hc rfl) nofun
    recordEmpty := fun _ => ⟨rfl, rfl⟩
    resultEmpty := fun _ => ⟨rfl, rfl, rfl⟩
    resultThere := nofun
    exactLength := nofun
    signature := fun hp => absurd rfl hp }

theorem clear (h : EngineInv s) (op : OpCode) : EngineInv (s.clear op) := by
  rcases s.clear_cases op with ⟨-, e⟩ | ⟨-, e⟩ <;> rw [e]
  · exact (h.storeOp op).clearResult
  · exact h.storeOp op

/-! ### Launch -/

/-- What START wipes fits IDLE, and with an input within its capacity the operation's first phase too (R140). -/
theorem wiped_at (h : EngineInv s) (op : OpCode) {ph : Phase}
    (hph : ph = .idle ∨ ph = firstPhase op ∧ s.ilen ≤ s.params.inCap) : EngineInv { s.wiped op with ph := ph } := by
  have hfits : phaseFits ph op = true := by
    rcases hph with rfl | ⟨rfl, -⟩
    · rfl
    · cases op <;> rfl
  have hnew : ph ≠ .hsq ∧ ph ≠ .done ∧ ph ≠ .fault := by
    rcases hph with rfl | ⟨rfl, -⟩
    · decide
    · cases op <;> decide
  obtain ⟨hhsq, hdone, hfault⟩ := hnew
  exact { h with
    cur32 := Nat.two_pow_pos 32
    olen32 := Nat.two_pow_pos 32
    rlen32 := Nat.two_pow_pos 32
    faddr32 := Nat.two_pow_pos 32
    finfo32 := Nat.two_pow_pos 32
    inputFits := fun hb => by
      rcases hph with rfl | ⟨-, hl⟩
      · exact absurd hb Bool.false_ne_true
      · exact hl
    cursorFits := fun _ => Nat.zero_le _
    outputFits := fun _ => Nat.zero_le _
    written := fun _ => nofun
    phase := hfits
    hdrStart := fun _ => ⟨rfl, rfl⟩
    hsqStart := fun hp => absurd hp hhsq
    queueEmpty := fun _ => rfl
    latchesEmpty := fun _ => ⟨rfl, rfl, rfl⟩
    causeFault := iff_of_false (fun hc => hc rfl) hfault
    recordEmpty := fun _ => ⟨rfl, rfl⟩
    resultEmpty := fun _ => ⟨rfl, rfl, rfl⟩
    resultThere := fun hp => absurd hp hdone
    exactLength := fun hp => absurd hp hdone
    signature := fun _ => rfl }

theorem start (h : EngineInv s) (op : OpCode) : EngineInv (s.start op) := by
  rcases s.start_cases op with ⟨-, e⟩ | ⟨-, -, e⟩ | ⟨-, hl, e⟩ <;> rw [e]
  · exact h
  · exact (h.wiped_at op (.inl rfl)).raise nofun (by decide) (by decide) rfl
  · exact h.wiped_at op (.inr ⟨rfl, hl⟩)

theorem ctrlWrite (h : EngineInv s) (v : Word) : EngineInv (s.ctrlWrite v) := by
  rcases s.ctrlWrite_cases v with ⟨-, e⟩ | ⟨-, -, e⟩ | ⟨-, -, e⟩ <;> rw [e]
  · exact h.start _
  · exact h.clear _
  · exact h.storeOp _

/-! ### Host accesses -/

theorem ilenWrite (h : EngineInv s) (v : Word) : EngineInv (s.ilenWrite v) := by
  cases hb : s.busy with
  | true => rwa [State.ilenWrite, if_pos hb]
  | false =>
    rw [State.ilenWrite_of_not_busy v hb]
    have hidle : s.busy ≠ true := by rw [hb]; exact Bool.false_ne_true
    exact { h with
      ilen32 := v.isLt
      inputFits := fun hb' => absurd hb' hidle
      cursorFits := fun hb' => absurd hb' hidle }

theorem hostWriteIn (h : EngineInv s) {a : Nat} (b : Byte) (ha : a < s.params.inCap) :
    EngineInv (hostWriteIn s a b) := by
  cases hb : s.busy with
  | true => rwa [Machine.hostWriteIn, if_pos hb]
  | false =>
    rw [hostWriteIn_of_not_busy a b hb]
    exact { h with
      inCanonical := Mem.wf_set a b h.inCanonical
      inWithin := Mem.below_set b h.inWithin ha }

theorem hostStep (h : EngineInv s) {e : Input} {t : State} (ht : HostStep s e t) : EngineInv t := by
  cases ht with
  | ctrl v => exact h.ctrlWrite v
  | ilen v => exact h.ilenWrite v
  | readOnly => exact h
  | readReg r => rw [hostRead_frame]; exact h.congr_own ..
  | writeIn b ha => exact h.hostWriteIn b ha
  | readIn => rw [hostReadIn_frame]; exact h.congr_own ..
  | readOut => rw [hostReadOut_frame]; exact h.congr_own ..
  | reset => exact h.hardReset

/-! ### The loops -/

section Loop

variable (h : EngineInv s) (hloop : inLoop s)
include h hloop

theorem raise_inLoop {x : Cause} {addr info : Nat} (hx : x ≠ .noFault) (haddr : addr < 2 ^ 32) (hinfo : info ≤ 8192) :
    EngineInv (s.raise x addr info) :=
  h.raise hx haddr (Nat.lt_of_le_of_lt hinfo (by decide)) (h.signature hloop.phase_ne.2.2)

theorem push (v : Byte) (hroom : s.olen < s.params.outCap) : EngineInv (s.push v) :=
  have hb := hloop.busy
  have ⟨hhdr, hdone, _⟩ := hloop.phase_ne
  { h with
    outCanonical := Mem.wf_set _ _ h.outCanonical
    outWithin := Mem.below_set _ h.outWithin hroom
    olen32 := Nat.lt_of_le_of_lt hroom h.legal.2.2
    outputFits := fun _ => hroom
    written := fun _ a ha => by
      rcases Nat.lt_succ_iff_lt_or_eq.mp ha with hlt | rfl
      · exact Mem.isSome_set _ _ _ _ (h.written (.inl hb) a hlt)
      · rw [State.push_outMem, Mem.get_set_same, Option.isSome_some]
    hdrStart := fun hp => absurd hp hhdr
    resultThere := fun hp => absurd hp hdone
    exactLength := fun hp => absurd hp hdone }

theorem pushList (vs : List Byte) (hroom : s.olen + vs.length ≤ s.params.outCap) :
    EngineInv (s.pushList vs) := by
  induction vs generalizing s with
  | nil => exact h
  | cons v vs ih =>
    rw [List.length_cons] at hroom
    exact ih (h.push hloop v (by omega)) hloop (by rw [State.push_olen, State.push_params]; omega)

theorem advance {k : Nat} (hk : s.cur + k ≤ s.ilen) : EngineInv (s.advance k) :=
  { h with
    cur32 := Nat.lt_of_le_of_lt hk h.ilen32
    cursorFits := fun _ => hk
    hdrStart := fun hp => absurd hp hloop.phase_ne.1
    hsqStart := fun hp => Nat.le_add_right_of_le (h.hsqStart hp) }

/-- An appending instruction whose element is in the input keeps the invariant, whichever way it ends. -/
theorem appendStep {i : Instr} {t : State} (hi : s.cur + consumed i ≤ s.ilen) (ht : AppendStep i s t) : EngineInv t := by
  cases ht with
  | fits vs hlen _ hroom =>
    refine (h.pushList hloop vs (hlen ▸ hroom)).advance ?_ ?_
    · rwa [inLoop, State.pushList_ph]
    · rwa [State.pushList_cur, State.pushList_ilen]
  | badReference => exact h.raise_inLoop hloop nofun h.cur32 (distance_le i)
  | noRoom => exact h.raise_inLoop hloop nofun h.cur32 (by decide)

end Loop

/-! ### The engine's step -/

theorem withPos (h : EngineInv s) (hp : s.ph = .hsq) {p : Pos} (hge : s.cur ≤ p.cur) (hle : p.cur ≤ s.ilen) :
    EngineInv (s.withPos p) :=
  { h with
    cur32 := Nat.lt_of_le_of_lt hle h.ilen32
    cursorFits := fun _ => hle
    hdrStart := fun hp' => nomatch hp.symm.trans hp'
    hsqStart := fun _ => (h.hsqStart hp).trans hge
    queueEmpty := by simp [hp] }

theorem hsqFinish (h : EngineInv s) (hp : s.ph = .hsq) {r : StopReason} (hr : r ≠ .nothing) :
    EngineInv (s.hsqFinish r) := by
  rcases s.hsqFinish_cases r with ⟨hd, e⟩ | ⟨-, e⟩ <;> rw [e]
  · exact h.complete (inLoop.busy (.inl hp)) hd hr (fun _ => ⟨rfl, rfl⟩)
  · exact h.raise_inLoop (.inl hp) nofun h.cur32 (by decide)

theorem finishWith (h : EngineInv s) (hp : s.ph = .f7d ∨ s.ph = .f7e) : EngineInv (s.finishWith s.olen) := by
  refine h.complete (inLoop.busy (.inr hp)) (Nat.le_refl _) nofun (fun ho => ?_)
  have hfits := h.phase
  rcases hp with hp | hp <;> rw [hp, ho] at hfits <;> cases hfits

/-- HDR is the phase of the two HSQ operations (R15). -/
theorem opl_of_hdr (h : EngineInv s) (hp : s.ph = .hdr) (ho : s.opl ≠ .hsqSizes) : s.opl = .hsqDec := by
  have hfits := h.phase
  rw [hp] at hfits
  cases hc : s.opl with
  | hsqDec => rfl
  | hsqSizes => exact absurd hc ho
  | f7Dec | f7Enc => rw [hc] at hfits; cases hfits

/-- The completed header parse of HSQ_SIZES (R142). -/
theorem parsed_finishWith (h : EngineInv s) (hp : s.ph = .hdr) (ho : s.opl = .hsqSizes) :
    EngineInv (s.parsed.finishWith 0) :=
  have hdec : s.opl ≠ .hsqDec := by rw [ho]; decide
  have hlen : Config.hdrLen < 2 ^ 32 := by decide
  have hdone : EngineInv (s.finishWith 0) :=
    h.complete ((State.busy_iff s).mpr (.inl hp)) (Nat.zero_le _) nofun (fun ho' => absurd ho' hdec)
  { hdone with
    cur32 := hlen
    cursorFits := nofun
    hdrStart := nofun
    hsqStart := nofun
    queueEmpty := nofun
    latchesEmpty := nofun
    exactLength := fun _ ho' => absurd ho' hdec
    signature := fun _ => rfl }

/-- The completed header parse of HSQ_DEC: the loop starts at CUR = 6 (R100). -/
theorem parsed_hsq (h : EngineInv s) (hp : s.ph = .hdr) (hl : Config.hdrLen ≤ s.ilen) (ho : s.opl = .hsqDec) :
    EngineInv { s.parsed with ph := .hsq } :=
  have hb : s.busy = true := (State.busy_iff s).mpr (.inl hp)
  have hne : s.ph ≠ .fault ∧ s.ph ≠ .done := by rw [hp]; decide
  { h with
    cur32 := Nat.lt_of_le_of_lt hl h.ilen32
    inputFits := fun _ => h.inputFits hb
    cursorFits := fun _ => hl
    outputFits := fun _ => h.outputFits (.inl hb)
    written := fun _ => h.written (.inl hb)
    phase := by rw [State.parsed_opl, ho]; rfl
    hdrStart := nofun
    hsqStart := fun _ => Nat.le_refl 6
    queueEmpty := nofun
    latchesEmpty := nofun
    causeFault := iff_of_false (mt h.causeFault.mp hne.1) nofun
    recordEmpty := fun _ => h.recordEmpty hne.1
    resultEmpty := fun _ => h.resultEmpty hne.2
    resultThere := nofun
    exactLength := nofun
    signature := fun _ => rfl }

theorem hdrStep (h : EngineInv s) (hp : s.ph = .hdr) : EngineInv s.hdrStep := by
  rcases s.hdrStep_cases with ⟨-, e⟩ | ⟨-, ho, e⟩ | ⟨hl, ho, e⟩ <;> rw [e]
  · exact h.raise nofun (by decide) (by decide) (h.signature (by rw [hp]; decide))
  · exact h.parsed_finishWith hp ho
  · exact h.parsed_hsq hp hl (h.opl_of_hdr hp ho)

/-- An HSQ command is read on from CUR and not past ILEN. -/
theorem readsOn (h : EngineInv s) (hp : s.ph = .hsq) : ReadsOn s.buffer s.pos (decodeHsq s.buffer s.full s.pos) :=
  ReadsOn.decodeHsq s.full (h.cursorFits (inLoop.busy (.inl hp)))

theorem withPos_decoded (h : EngineInv s) (hp : s.ph = .hsq) {i : Instr} {p : Pos}
    (hd : decodeHsq s.buffer s.full s.pos = .ok (i, p)) : EngineInv (s.withPos p) := by
  have hreads := h.readsOn hp
  rw [hd] at hreads
  exact h.withPos hp hreads.1 hreads.2

theorem engineStep (h : EngineInv s) {t : State} (ht : EngineStep s t) : EngineInv t := by
  cases ht with
  | wait => exact h
  | header hp => exact h.hdrStep hp
  | @truncated hp e hd =>
    have hreads := h.readsOn hp
    rw [hd] at hreads
    exact h.raise_inLoop (.inl hp) nofun (Nat.lt_of_le_of_lt hreads.1 h.ilen32) (hreads.2.trans (by decide))
  | @command hp i p hd _ _ ht =>
    have hpos := h.withPos_decoded hp hd
    refine hpos.appendStep (.inl hp) ?_ ht
    rw [(hsqMeets_cases (decodeHsq_meets hd)).1]
    exact hpos.cursorFits (inLoop.busy (.inl hp))
  | stop hp hd => exact (h.withPos_decoded hp hd).hsqFinish hp (by split <;> decide)
  | element hp hi ht => exact h.appendStep (.inr (hp.imp And.left And.left)) hi.fits ht
  | finish hp => exact h.finishWith hp

theorem step (h : EngineInv s) {t : State} (ht : step s = .next t) : EngineInv t := by
  rcases step_cases ht with ⟨-, hstep⟩ | ⟨e, hstep⟩
  · exact h.afterMove.engineStep hstep
  · exact h.afterMove.hostStep hstep

end EngineInv

end Sys2Proof.Safety

namespace Sys2Proof.Proofs

open Sys2Proof.Machine Sys2Proof.Safety

/-- Settles O3: every step is the engine's own or a move of the outside world, and each kind keeps the invariant. -/
theorem stepKeepsTheInvariant : Obligations.StepKeepsTheInvariant := fun _ _ h ht => h.step ht

/-- Settles O2: the default parameters are legal, and at reset nothing runs. -/
theorem invariantHoldsAtReset : Obligations.InvariantHoldsAtReset :=
  ⟨EngineInv.at_reset (p := Config.default) (by decide), nofun⟩

end Sys2Proof.Proofs
end

section
/-! PROOFS. The transitions of PH (R15), event by event. -/

namespace Sys2Proof.Machine

open Sys2Proof.Safety

/-! ### On the engine's turn -/

/-- An element has no reference, so it raises for its room only. -/
theorem AppendStep.ph_of_no_reference {i : Instr} {s t : State} (h : AppendStep i s t) (hi : distance i = 0) :
    t.ph = if s.params.outCap < s.olen + produced i then .fault else s.ph := by
  rw [h.ph]
  simp only [hi, Nat.not_lt_zero, false_or]

/-- A stop ends in DONE, or in FAULT when the output is short (R109). -/
theorem State.hsqFinish_ph (s : State) (r : StopReason) :
    if s.olen < s.dsize.toNat then (s.hsqFinish r).ph = .fault
    else (s.hsqFinish r).ph = .done ∧ (s.hsqFinish r).stopr = r := by
  rcases s.hsqFinish_cases r with ⟨hlen, e⟩ | ⟨hlen, e⟩ <;> rw [e]
  · rw [if_neg (Nat.not_lt.mpr hlen)]
    exact ⟨rfl, rfl⟩
  · rw [if_pos hlen, State.raise_ph]

namespace EngineStep

variable {s t : State}

theorem eq_of_settled (h : EngineStep s t) (hs : settled s) : t = s := by
  cases h with
  | wait => rfl
  | header hp | truncated hp | command hp | stop hp => simp [settled, hp] at hs
  | element hp => rcases hp with ⟨hp, -⟩ | ⟨hp, -⟩ <;> simp [settled, hp] at hs
  | finish hp => rcases hp with hp | hp <;> simp [settled, hp] at hs

theorem ph_of_hdr (h : EngineStep s t) (hp : s.ph = .hdr) :
    t.ph = if s.ilen < 6 then .fault else if s.opl = .hsqSizes then .done else .hsq := by
  cases h with
  | header =>
    change s.hdrStep.ph = if s.ilen < Config.hdrLen then .fault else _
    rcases s.hdrStep_cases with ⟨hl, e⟩ | ⟨hl, ho, e⟩ | ⟨hl, ho, e⟩ <;> rw [e]
    · rw [if_pos hl, State.raise_ph]
    · rw [if_neg (Nat.not_lt.mpr hl), if_pos ho, State.finishWith_ph]
    · rw [if_neg (Nat.not_lt.mpr hl), if_neg ho]
  | wait hs => simp [settled, hp] at hs
  | truncated hp' | command hp' | stop hp' | element hp' | finish hp' => simp [hp] at hp'

theorem ph_of_truncated (h : EngineStep s t) (hp : s.ph = .hsq) {e : Trunc}
    (hd : decodeHsq s.buffer s.full s.pos = .error e) : t.ph = .fault := by
  cases h with
  | truncated => rfl
  | command _ hd' | stop _ hd' => cases hd.symm.trans hd'
  | wait hs => simp [settled, hp] at hs
  | header hp' | element hp' | finish hp' => simp [hp] at hp'

theorem ph_of_command (h : EngineStep s t) (hp : s.ph = .hsq) {i : Instr} {p : Pos}
    (hd : decodeHsq s.buffer s.full s.pos = .ok (i, p)) (ha : appends i = true) :
    t.ph = if s.olen < distance i ∨ s.params.outCap < s.olen + produced i then .fault else .hsq := by
  cases h with
  | command _ hd' _ ht =>
    cases hd.symm.trans hd'
    rw [← hp]
    exact ht.ph
  | stop _ hd' ha' => cases hd.symm.trans hd'; cases ha.symm.trans ha'
  | truncated _ hd' => cases hd.symm.trans hd'
  | wait hs => simp [settled, hp] at hs
  | header hp' | element hp' | finish hp' => simp [hp] at hp'

theorem ph_of_stop (h : EngineStep s t) (hp : s.ph = .hsq) {i : Instr} {p : Pos}
    (hd : decodeHsq s.buffer s.full s.pos = .ok (i, p)) (ha : appends i = false) :
    if s.olen < s.dsize.toNat then t.ph = .fault
    else t.ph = .done ∧ t.stopr = if i = .litStop then .litFull else .eof := by
  cases h with
  | stop _ hd' =>
    cases hd.symm.trans hd'
    exact (s.withPos p).hsqFinish_ph _
  | command _ hd' ha' => cases hd.symm.trans hd'; cases ha.symm.trans ha'
  | truncated _ hd' => cases hd.symm.trans hd'
  | wait hs => simp [settled, hp] at hs
  | header hp' | element hp' | finish hp' => simp [hp] at hp'

theorem ph_of_f7_end (h : EngineStep s t) (hp : s.ph = .f7d ∨ s.ph = .f7e) (hend : s.ilen ≤ s.cur) : t.ph = .done := by
  cases h with
  | finish => rfl
  | element hd =>
    rcases hd with ⟨-, hd⟩ | ⟨-, hd⟩
    · cases (decodeF7_end (d := s.buffer) hend).symm.trans hd
    · cases (selectF7_end (d := s.buffer) hend).symm.trans hd
  | wait hs => rcases hp with hp | hp <;> simp [settled, hp] at hs
  | header hp' | truncated hp' | command hp' | stop hp' => simp [hp'] at hp

theorem ph_of_f7_element (h : EngineStep s t) (hp : s.ph = .f7d ∨ s.ph = .f7e) (hmore : ¬ s.ilen ≤ s.cur) :
    ∃ i, (s.ph = .f7d ∧ decodeF7 s.buffer s.cur = some i ∨ s.ph = .f7e ∧ selectF7 s.buffer s.cur = some i) ∧
      t.ph = if s.params.outCap < s.olen + produced i then .fault else s.ph := by
  cases h with
  | element hd hi ht => exact ⟨_, hd, ht.ph_of_no_reference hi.noReference⟩
  | finish _ hend => exact absurd hend hmore
  | wait hs => rcases hp with hp | hp <;> simp [settled, hp] at hs
  | header hp' | truncated hp' | command hp' | stop hp' => simp [hp'] at hp

theorem ph_of_f7d (h : EngineStep s t) (hp : s.ph = .f7d) :
    if s.ilen ≤ s.cur then t.ph = .done
    else ∃ i, decodeF7 s.buffer s.cur = some i ∧
      t.ph = if s.params.outCap < s.olen + produced i then .fault else .f7d := by
  split
  · next hend => exact h.ph_of_f7_end (.inl hp) hend
  · next hmore =>
    obtain ⟨i, ⟨-, hd⟩ | ⟨hp', -⟩, ht⟩ := h.ph_of_f7_element (.inl hp) hmore
    · exact ⟨i, hd, hp ▸ ht⟩
    · cases hp.symm.trans hp'

theorem ph_of_f7e (h : EngineStep s t) (hp : s.ph = .f7e) :
    if s.ilen ≤ s.cur then t.ph = .done
    else ∃ i, selectF7 s.buffer s.cur = some i ∧
      t.ph = if s.params.outCap < s.olen + produced i then .fault else .f7e := by
  split
  · next hend => exact h.ph_of_f7_end (.inr hp) hend
  · next hmore =>
    obtain ⟨i, ⟨hp', -⟩ | ⟨-, hd⟩, ht⟩ := h.ph_of_f7_element (.inr hp) hmore
    · cases hp.symm.trans hp'
    · exact ⟨i, hd, hp ▸ ht⟩

end EngineStep

/-! ### On the host's turn -/

/-- While BUSY a CTRL write does nothing (R149). -/
theorem State.ctrlWrite_of_busy {s : State} (v : Word) (hb : s.busy = true) : s.ctrlWrite v = s := by
  have hstore : ∀ op, s.storeOp op = s := fun op => if_pos hb
  rcases s.ctrlWrite_cases v with ⟨-, e⟩ | ⟨-, -, e⟩ | ⟨-, -, e⟩ <;> rw [e]
  · exact if_pos hb
  · rcases s.clear_cases (ctrlOpOf v) with ⟨hp, -⟩ | ⟨-, e⟩
    · rcases hp with hp | hp <;> simp [State.busy, hp] at hb
    · rw [e, hstore]
  · exact hstore _

/-- The phase START enters, by the number in CTRL.OP (R16, R140). -/
theorem firstPhase_ctrlOpOf (v : Word) :
    firstPhase (ctrlOpOf v) = if v.toNat % 4 ≤ 1 then .hdr else if v.toNat % 4 = 2 then .f7d else .f7e := by
  rw [← ctrlOpOf_toNat]
  cases ctrlOpOf v <;> rfl

theorem State.ctrlWrite_start {s : State} {v : Word} (hb : s.busy = false) (h8 : v.getLsbD 8 = true) :
    (s.ctrlWrite v).opl = ctrlOpOf v ∧
    (s.ctrlWrite v).ph = if s.params.inCap < s.ilen then .fault else firstPhase (ctrlOpOf v) := by
  rw [State.ctrlWrite, if_pos h8]
  rcases s.start_cases (ctrlOpOf v) with ⟨hb', -⟩ | ⟨-, hl, e⟩ | ⟨-, hl, e⟩
  · cases hb.symm.trans hb'
  · rw [e, if_pos hl]; exact ⟨rfl, rfl⟩
  · rw [e, if_neg (Nat.not_lt.mpr hl)]; exact ⟨rfl, rfl⟩

theorem State.storeOp_ph_opl (s : State) (op : OpCode) : (s.storeOp op).ph = s.ph ∧ (s.storeOp op).opl = s.opl := by
  rw [State.storeOp_eq]
  exact ⟨rfl, rfl⟩

theorem State.ctrlWrite_no_start {s : State} {v : Word} (hs : settled s) (h8 : v.getLsbD 8 = false) :
    (s.ctrlWrite v).opl = s.opl ∧ (s.ctrlWrite v).ph = if v.getLsbD 9 = true then .idle else s.ph := by
  obtain ⟨hph, hopl⟩ := s.storeOp_ph_opl (ctrlOpOf v)
  rcases s.ctrlWrite_cases v with ⟨h8', -⟩ | ⟨-, h9, e⟩ | ⟨-, h9, e⟩
  · cases h8.symm.trans h8'
  · rw [e, if_pos h9]
    rcases s.clear_cases (ctrlOpOf v) with ⟨-, e⟩ | ⟨hp, e⟩ <;> rw [e]
    · exact ⟨hopl, rfl⟩
    · exact ⟨hopl, hph.trans (hs.resolve_right hp)⟩
  · rw [e, h9, if_neg Bool.false_ne_true]
    exact ⟨hopl, hph⟩

end Sys2Proof.Machine

namespace Sys2Proof.Proofs

open Sys2Proof.Machine Sys2Proof.Safety

/-- Settles O6: what the engine's step, the reset input and a CTRL write do to PH, and that no other move touches it. -/
theorem phaseFollowsTheTransitionTable : Obligations.PhaseFollowsTheTransitionTable := by
  refine ⟨fun s hm => ?_, fun s rest h => ⟨_, step_reset h, rfl, rfl⟩, fun s v rest h => ?_,
    fun s t e rest h hpass hreset hctrl hx => ?_⟩
  · obtain ⟨t, hx, ht⟩ := engine_step hm
    refine ⟨t, hx, fun hs => ?_, ht.ph_of_hdr, fun hp => ?_, ht.ph_of_f7d, ht.ph_of_f7e⟩
    · rw [ht.eq_of_settled hs]
      rfl
    · split
      · next e hd => exact ht.ph_of_truncated hp hd
      · next i p hd =>
        split
        · next ha => exact ht.ph_of_command hp hd ha
        · next ha => exact ht.ph_of_stop hp hd (Bool.eq_false_iff.mpr ha)
  · have hb : settled s ↔ State.busy { s with inputs := rest } = false := settled_iff s
    refine ⟨_, step_ctrlWrite h, fun hs => ?_, fun hs h8 => ?_, fun hs h8 => ?_⟩
    · rw [State.ctrlWrite_of_busy v (Bool.of_not_eq_false (mt hb.mpr hs))]
      exact ⟨rfl, rfl⟩
    · obtain ⟨hopl, hph⟩ := State.ctrlWrite_start (hb.mp hs) h8
      rw [hopl, hph, firstPhase_ctrlOpOf]
      exact ⟨ctrlOpOf_toNat v, rfl⟩
    · exact State.ctrlWrite_no_start hs h8
  · rw [(host_step h hpass hx).frame hreset hctrl]
    exact ⟨rfl, rfl⟩

end Sys2Proof.Proofs
end

section
/-! PROOFS. The frame of an appending instruction that completes (R47): the appended bytes, OLEN and CUR. -/

namespace Sys2Proof.Machine

open Sys2Proof.Safety

/-- With its reference inside the output and room for its bytes, an appending instruction raises nothing: it appends a
group of bytes and consumes its element. -/
theorem AppendStep.completes {i : Instr} {s t : State} (h : AppendStep i s t) (href : distance i ≤ s.olen)
    (hroom : s.olen + produced i ≤ s.params.outCap) :
    ∃ vs : List Byte, vs.length = produced i ∧ t = (s.pushList vs).advance (consumed i) := by
  cases h with
  | fits vs hlen => exact ⟨vs, hlen, rfl⟩
  | badReference hout => exact absurd href (Nat.not_le_of_lt hout)
  | noRoom _ hfull => exact absurd hroom (Nat.not_le_of_lt hfull)

/-- A group of bytes and a move of the cursor touch OUT, OLEN and CUR only. -/
theorem State.advance_pushList_eq (s : State) (vs : List Byte) (k : Nat) :
    (s.pushList vs).advance k =
      { s with outMem := (s.pushList vs).outMem, olen := s.olen + vs.length, cur := s.cur + k } := by
  rw [State.pushList_eq]
  rfl

end Sys2Proof.Machine

namespace Sys2Proof.Proofs

open Sys2Proof.Machine Sys2Proof.Safety

/-- Settles O40: a completing instruction is a group of bytes appended and a move of CUR, and the group lies at OLEN. -/
theorem appendingInstructionsFrame : Obligations.AppendingInstructionsFrame := by
  intro i s t happ href hroom hx
  obtain ⟨u, hu, hstep⟩ := exec_appends happ s
  cases hu.symm.trans hx
  have hin := hstep.keepsInput.inByte
  obtain ⟨vs, hlen, rfl⟩ := hstep.completes href hroom
  rw [← hlen]
  exact ⟨s.advance_pushList_eq vs (consumed i), s.outByte_pushList_other vs, hin⟩

end Sys2Proof.Proofs
end

section
/-! PROOFS. The HSQ decoder read both ways: it answers a command exactly when the command's control bits and then its raw
operand come next (R64, R101). -/

namespace Sys2Proof

open Sys2Proof.Safety

/-! ### Words and fields -/

@[simp] theorem halfOf_loByte_hiByte (w : Half) : halfOf (loByte w) (hiByte w) = w := by
  rw [halfOf, hiByte, loByte, BitVec.setWidth_ushiftRight_eq_extractLsb, BitVec.setWidth_eq_extractLsb' (by decide)]
  exact BitVec.extractLsb'_append_extractLsb'

@[simp] theorem loByte_halfOf (lo hi : Byte) : loByte (halfOf lo hi) = lo := BitVec.setWidth_append_eq_right

@[simp] theorem hiByte_halfOf (lo hi : Byte) : hiByte (halfOf lo hi) = hi :=
  BitVec.setWidth_ushiftRight_eq_extractLsb.trans BitVec.extractLsb'_append_eq_left

@[simp] theorem longField_longWord (field : BitVec 13) (count : BitVec 3) : longField (longWord field count) = field :=
  BitVec.extractLsb'_append_eq_left

@[simp] theorem longCount_longWord (field : BitVec 13) (count : BitVec 3) : longCount (longWord field count) = count :=
  BitVec.extractLsb'_append_eq_right

@[simp] theorem longWord_longField_longCount (w : Half) : longWord (longField w) (longCount w) = w :=
  BitVec.extractLsb'_append_extractLsb'

theorem longWord_longField_zero {w : Half} (h : longCount w = 0) : longWord (longField w) 0 = w := by
  rw [← h, longWord_longField_longCount]

theorem countOf_getLsbD (count : BitVec 2) : countOf (count.getLsbD 1) (count.getLsbD 0) = count := by
  decide +revert

theorem bits_short_countOf (c1 c0 : Bool) (b : Byte) :
    (Instr.short (countOf c1 c0) b).bits = [false, false, c1, c0] := by
  cases c1 <;> cases c0 <;> rfl

/-! ### Bytes standing in a buffer -/

/-- The bytes l stand in the buffer from index a on. -/
def Buffer.HasAt (d : Buffer) (a : Nat) (l : List Byte) : Prop :=
  ∀ k < l.length, a + k < d.len ∧ d.byte (a + k) = l.getD k 0

namespace Buffer.HasAt

variable {d : Buffer} {a : Nat}

theorem nil : d.HasAt a [] := fun k hk => absurd hk (Nat.not_lt_zero k)

theorem cons_iff {b : Byte} {l : List Byte} :
    d.HasAt a (b :: l) ↔ (a < d.len ∧ d.byte a = b) ∧ d.HasAt (a + 1) l := by
  constructor
  · intro h
    refine ⟨h 0 (Nat.succ_pos _), fun k hk => ?_⟩
    rw [Nat.add_assoc, Nat.add_comm 1 k]
    exact h (k + 1) (Nat.succ_lt_succ hk)
  · rintro ⟨h0, h⟩ k hk
    cases k with
    | zero => exact h0
    | succ k =>
      rw [Nat.add_comm k 1, ← Nat.add_assoc, Nat.add_comm 1 k]
      exact h k (Nat.lt_of_succ_lt_succ hk)

theorem append_iff {l m : List Byte} : d.HasAt a (l ++ m) ↔ d.HasAt a l ∧ d.HasAt (a + l.length) m := by
  induction l generalizing a with
  | nil => exact ⟨fun h => ⟨nil, h⟩, fun h => h.2⟩
  | cons b l ih =>
    rw [List.cons_append, cons_iff, ih, cons_iff, and_assoc (b := HasAt _ _ _), List.length_cons, Nat.add_assoc,
      Nat.add_comm 1]

end Buffer.HasAt

theorem readByte_ok_iff {d : Buffer} {p p' : Pos} {b : Byte} :
    readByte d p = .ok (b, p') ↔ d.HasAt p.cur [b] ∧ p' = { cur := p.cur + 1, q := p.q } := by
  by_cases hl : p.cur + 1 ≤ d.len
  · simp [readByte_ok hl, Buffer.HasAt.cons_iff, Buffer.HasAt.nil, Nat.lt_of_succ_le hl, eq_comm]
  · simp [readByte_error (Nat.lt_of_not_le hl), Buffer.HasAt.cons_iff, Nat.not_lt.mpr (Nat.le_of_not_lt hl)]

theorem Buffer.half_eq_iff {d : Buffer} {a : Nat} {w : Half} :
    d.half a = w ↔ d.byte a = loByte w ∧ d.byte (a + 1) = hiByte w := by
  constructor
  · rintro rfl
    exact ⟨(loByte_halfOf _ _).symm, (hiByte_halfOf _ _).symm⟩
  · rintro ⟨hlo, hhi⟩
    rw [Buffer.half, hlo, hhi, halfOf_loByte_hiByte]

theorem readWord_ok_iff {d : Buffer} {p p' : Pos} {w : Half} :
    readWord d p = .ok (w, p') ↔ d.HasAt p.cur [loByte w, hiByte w] ∧ p' = { cur := p.cur + 2, q := p.q } := by
  by_cases hl : p.cur + 2 ≤ d.len
  · have h0 : p.cur < d.len := by omega
    simp [readWord_ok hl, Buffer.HasAt.cons_iff, Buffer.HasAt.nil, Buffer.half_eq_iff, h0, Nat.lt_of_succ_le hl,
      @eq_comm _ p']
  · simp [readWord_error (Nat.lt_of_not_le hl), Buffer.HasAt.cons_iff, Nat.not_lt.mpr (Nat.le_of_not_lt hl)]

/-! ### Control bits -/

theorem getBits_succ_ok_iff {d : Buffer} {k : Nat} {p p2 : Pos} {b : Bool} {bs : List Bool} :
    getBits d (k + 1) p = .ok (b :: bs, p2) ↔
      ∃ p1, getBit d p = .ok (b, p1) ∧ getBits d k p1 = .ok (bs, p2) := by
  constructor
  · intro h
    rw [getBits] at h
    split at h
    · cases h
    · next h1 =>
      split at h
      · cases h
      · next h2 => cases h; exact ⟨_, h1, h2⟩
  · rintro ⟨p1, h1, h2⟩
    simp only [getBits, h1, h2]

/-! ### The decoder after each beginning -/

/-- The command's raw operand stands at p, and p' is the position right after it. -/
def ReadsOperand (d : Buffer) (i : Instr) (p p' : Pos) : Prop :=
  d.HasAt p.cur i.raw ∧ p' = { cur := p.cur + i.raw.length, q := p.q }

section

variable {d : Buffer} {full : Bool} {p p' : Pos} {i : Instr}

/-- After control bit 1 (R102, R103). -/
theorem decodeLit_ok_iff :
    decodeLit d full p = .ok (i, p') ↔
      i.wf = true ∧ hsqMeets full i = true ∧ i.bits = [true] ∧ ReadsOperand d i p p' := by
  constructor
  · intro h
    unfold decodeLit at h
    split at h
    · next hfull => cases h; exact ⟨rfl, hfull, rfl, .nil, rfl⟩
    · next hfull =>
      split at h
      · cases h
      · next b p1 hb => cases h; exact ⟨rfl, by simpa [hsqMeets] using hfull, rfl, readByte_ok_iff.mp hb⟩
  · rintro ⟨-, hmeets, hbits, hop⟩
    cases i with
    | lit b =>
      have hfull : full = false := by simpa [hsqMeets] using hmeets
      simp [decodeLit, hfull, readByte_ok_iff.mpr hop]
    | litStop =>
      have hfull : full = true := hmeets
      simp [decodeLit, hfull, hop.2, Instr.raw]
    | long | longx | eof | short => cases hbits
    | esc | run | byte | tail | erun | eesc | ebyte | hsqDec | hsqSizes | f7Dec | f7Enc | clear => cases hbits

theorem decodeLong_of_word {field : BitVec 13} {count : BitVec 3} (hcount : count ≠ 0)
    (h : ReadsOperand d (.long field count) p p') : decodeLong d p = .ok (.long field count, p') := by
  simp only [decodeLong, readWord_ok_iff.mpr h, longCount_longWord, longField_longWord]
  rw [if_pos hcount]

theorem decodeLong_of_extra {field : BitVec 13} {x : Byte} (h : ReadsOperand d (.longx field x) p p') :
    decodeLong d p = .ok (if x = 0 then .eof field else .longx field x, p') := by
  obtain ⟨hat, hp'⟩ := h
  obtain ⟨hatw, hatx⟩ := (Buffer.HasAt.append_iff (l := [_, _]) (m := [x])).mp hat
  have hw := readWord_ok_iff.mpr ⟨hatw, rfl⟩
  have hx : readByte d { cur := p.cur + 2, q := p.q } = .ok (x, p') := readByte_ok_iff.mpr ⟨hatx, hp'⟩
  simp only [decodeLong, hw, hx, longCount_longWord, longField_longWord]
  rw [if_neg (not_not.mpr rfl)]
  split <;> rfl

/-- After control bits 0, 1 (R67 to R69, R104). -/
theorem decodeLong_ok_iff :
    decodeLong d p = .ok (i, p') ↔ i.wf = true ∧ i.bits = [false, true] ∧ ReadsOperand d i p p' := by
  constructor
  · intro h
    unfold decodeLong at h
    split at h
    · cases h
    · next w p1 hw =>
      obtain ⟨hat, rfl⟩ := readWord_ok_iff.mp hw
      split at h
      · next hcount =>
        cases h
        refine ⟨by simpa [Instr.wf] using hcount, rfl, ?_, rfl⟩
        simpa [Instr.raw] using hat
      · next hcount =>
        have hword := longWord_longField_zero (Decidable.not_not.mp hcount)
        split at h
        · cases h
        · next x p2 hx =>
          obtain ⟨hatx, rfl⟩ := readByte_ok_iff.mp hx
          have hraw := Buffer.HasAt.append_iff.mpr ⟨hat, hatx⟩
          split at h
          · next hzero =>
            cases h
            refine ⟨rfl, rfl, ?_, rfl⟩
            rwa [Instr.raw, hword, ← hzero]
          · next hzero =>
            cases h
            refine ⟨bne_iff_ne.mpr hzero, rfl, ?_, rfl⟩
            rwa [Instr.raw, hword]
  · rintro ⟨hwf, hbits, hop⟩
    cases i with
    | long field count => exact decodeLong_of_word (bne_iff_ne.mp hwf) hop
    | longx field x => rw [decodeLong_of_extra hop, if_neg (bne_iff_ne.mp hwf)]
    | eof field => exact decodeLong_of_extra (x := 0) hop
    | lit | litStop | short => cases hbits
    | esc | run | byte | tail | erun | eesc | ebyte | hsqDec | hsqSizes | f7Dec | f7Enc | clear => cases hbits

/-- After control bits 0, 0 (R66, R107): the two count bits come first. -/
theorem decodeShort_ok_iff :
    decodeShort d p = .ok (i, p') ↔
      ∃ c1 c0 p1 p2, getBit d p = .ok (c1, p1) ∧ getBit d p1 = .ok (c0, p2) ∧
        i.wf = true ∧ i.bits = [false, false, c1, c0] ∧ ReadsOperand d i p2 p' := by
  constructor
  · intro h
    unfold decodeShort at h
    split at h
    · cases h
    · next c1 p1 h1 =>
      split at h
      · cases h
      · next c0 p2 h0 =>
        split at h
        · cases h
        · next b p3 hb =>
          cases h
          exact ⟨c1, c0, p1, p2, h1, h0, rfl, bits_short_countOf c1 c0 b, readByte_ok_iff.mp hb⟩
  · rintro ⟨c1, c0, p1, p2, h1, h0, -, hbits, hop⟩
    cases i with
    | short count b =>
      cases hbits
      simp only [decodeShort, h1, h0, readByte_ok_iff.mpr hop, countOf_getLsbD]
    | lit | litStop | long | longx | eof => cases hbits
    | esc | run | byte | tail | erun | eesc | ebyte | hsqDec | hsqSizes | f7Dec | f7Enc | clear => cases hbits

/-- R64: the control bits of a command are those of LIT, of the long family, or of SHORT. -/
theorem bits_of_hsqMeets (h : hsqMeets full i = true) :
    i.bits = [true] ∨ i.bits = [false, true] ∨ ∃ c1 c0, i.bits = [false, false, c1, c0] := by
  cases i with
  | lit | litStop => exact .inl rfl
  | long | longx | eof => exact .inr (.inl rfl)
  | short => exact .inr (.inr ⟨_, _, rfl⟩)
  | esc | run | byte | tail | erun | eesc | ebyte | hsqDec | hsqSizes | f7Dec | f7Enc | clear => cases h

/-- R64 and R101: a command is its control bits, then its raw operand. -/
theorem decodeHsq_ok_iff :
    decodeHsq d full p = .ok (i, p') ↔
      i.wf = true ∧ hsqMeets full i = true ∧
        ∃ p1, getBits d i.bits.length p = .ok (i.bits, p1) ∧ ReadsOperand d i p1 p' := by
  constructor
  · intro h
    have hmeets := decodeHsq_meets h
    unfold decodeHsq at h
    split at h
    · cases h
    · next p1 h1 =>
      obtain ⟨hwf, -, hbits, hop⟩ := decodeLit_ok_iff.mp h
      exact ⟨hwf, hmeets, p1, by simp only [hbits, getBits, h1, List.length_cons, List.length_nil], hop⟩
    · next p1 h1 =>
      split at h
      · cases h
      · next p2 h2 =>
        obtain ⟨hwf, hbits, hop⟩ := decodeLong_ok_iff.mp h
        exact ⟨hwf, hmeets, p2, by simp only [hbits, getBits, h1, h2, List.length_cons, List.length_nil], hop⟩
      · next p2 h2 =>
        obtain ⟨c1, c0, p3, p4, h3, h4, hwf, hbits, hop⟩ := decodeShort_ok_iff.mp h
        exact ⟨hwf, hmeets, p4, by simp only [hbits, getBits, h1, h2, h3, h4, List.length_cons, List.length_nil], hop⟩
  · rintro ⟨hwf, hmeets, p1, hget, hop⟩
    rcases bits_of_hsqMeets hmeets with hbits | hbits | ⟨c1, c0, hbits⟩ <;>
      simp only [hbits, List.length_cons, getBits_succ_ok_iff] at hget
    · obtain ⟨q1, h1, hend⟩ := hget
      cases hend
      simpa only [decodeHsq, h1] using decodeLit_ok_iff.mpr ⟨hwf, hmeets, hbits, hop⟩
    · obtain ⟨q1, h1, q2, h2, hend⟩ := hget
      cases hend
      simpa only [decodeHsq, h1, h2] using decodeLong_ok_iff.mpr ⟨hwf, hbits, hop⟩
    · obtain ⟨q1, h1, q2, h2, q3, h3, q4, h4, hend⟩ := hget
      cases hend
      simpa only [decodeHsq, h1, h2] using decodeShort_ok_iff.mpr ⟨c1, c0, q3, _, h3, h4, hwf, hbits, hop⟩

end

end Sys2Proof

namespace Sys2Proof.Proofs

/-- Settles O15: the decoder's equivalence, with the bytes of the raw operand written out. -/
theorem hsqDecoderReadsBitsThenOperand : Obligations.HsqDecoderReadsBitsThenOperand :=
  fun _ _ _ _ _ => decodeHsq_ok_iff

end Sys2Proof.Proofs
end

section
/-! PROOFS. The control bits of one word: read from the queue until it is spent, and written by the Bit Writer into one
slot (R90, R94, R161). -/

namespace Sys2Proof

open Sys2Proof.Safety

/-! ### The Bit Reader on one word -/

/-- A queue of at least 2^k holds k bits, low bit first, which no refill interrupts (R94). -/
theorem getBits_of_queue (d : Buffer) {k : Nat} {p : Pos} (h : 2 ^ k ≤ p.q.toNat) :
    getBits d k p = .ok ((List.range k).map p.q.getLsbD, { cur := p.cur, q := p.q >>> k }) := by
  induction k generalizing p with
  | zero => simp [getBits]
  | succ k ih =>
    have hhalf : 2 ^ k ≤ (p.q >>> 1).toNat := by
      rw [BitVec.toNat_ushiftRight, Nat.shiftRight_eq_div_pow]
      omega
    have hq : p.q >>> 1 ≠ 0 := fun h0 => by
      rw [h0] at hhalf
      exact absurd hhalf (Nat.not_le.mpr (Nat.two_pow_pos k))
    rw [getBits, getBit, if_neg hq]
    simp only [ih (p := { cur := p.cur, q := p.q >>> 1 }) hhalf, List.range_succ_eq_map, List.map_cons, List.map_map,
      ← BitVec.shiftRight_add, Nat.add_comm 1 k]
    congr 4
    funext j
    simp [Nat.add_comm]

theorem two_pow_15_le_refillQ (w : Half) : 2 ^ 15 ≤ (refillQ w).toNat := by
  rw [refillQ, BitVec.toNat_or]
  exact Nat.left_le_or

theorem getLsbD_refillQ (w : Half) {j : Nat} (hj : j < 15) : (refillQ w).getLsbD j = w.getLsbD (j + 1) := by
  rw [refillQ, BitVec.getLsbD_or, BitVec.getLsbD_ushiftRight, Nat.add_comm 1 j]
  interval_cases j <;> simp

/-- A refill delivers up to 16 bits of its word, low bit first (R94). -/
theorem getBits_of_refill {d : Buffer} {k : Nat} {p : Pos} (hk : k ≤ 15) (hq : p.q >>> 1 = 0) (hl : p.cur + 2 ≤ d.len) :
    getBits d (k + 1) p =
      .ok ((List.range (k + 1)).map (d.half p.cur).getLsbD, { cur := p.cur + 2, q := refillQ (d.half p.cur) >>> k }) := by
  have hroom : 2 ^ k ≤ (refillQ (d.half p.cur)).toNat :=
    (Nat.pow_le_pow_right Nat.two_pos hk).trans (two_pow_15_le_refillQ _)
  rw [getBits, getBit, if_pos hq, if_neg (Nat.not_lt.mpr hl)]
  simp only [getBits_of_queue d (p := { cur := p.cur + 2, q := refillQ (d.half p.cur) }) hroom, List.range_succ_eq_map,
    List.map_cons, List.map_map]
  congr 3
  refine List.map_congr_left fun j hj => ?_
  exact getLsbD_refillQ _ ((List.mem_range.mp hj).trans_le hk)

/-- Up to 16 control bits cost at most one refill, so two bytes are enough for them. -/
theorem getBits_total {d : Buffer} {k : Nat} {p : Pos} (hk : k ≤ 16) (hl : p.cur + 2 ≤ d.len) :
    ∃ bs p', getBits d k p = .ok (bs, p') ∧ bs.length = k ∧ p'.cur ≤ p.cur + 2 := by
  induction k generalizing p with
  | zero => exact ⟨[], p, rfl, rfl, Nat.le_add_right _ _⟩
  | succ k ih =>
    rcases getBit_cases d p with ⟨-, hget⟩ | ⟨hq, -, -⟩ | ⟨-, hshort, -⟩
    · obtain ⟨bs, p', hbs, hlen, hcur⟩ := ih (p := { cur := p.cur, q := p.q >>> 1 }) (Nat.le_of_succ_le hk) hl
      exact ⟨_, p', getBits_succ_ok_iff.mpr ⟨_, hget, hbs⟩, by rw [List.length_cons, hlen], hcur⟩
    · exact ⟨_, _, getBits_of_refill (Nat.le_of_succ_le_succ hk) hq hl, by simp, Nat.le_refl _⟩
    · exact absurd hl (Nat.not_le_of_lt hshort)

/-! ### The Bit Writer in one slot -/

/-- The control word whose low bits are these, the first one lowest (R161). -/
def controlWord : List Bool → Half
  | [] => 0
  | b :: bs => (BitVec.ofBool b).setWidth 16 ||| controlWord bs <<< 1

theorem getLsbD_controlWord (bs : List Bool) {k : Nat} (hk : k < 16) : (controlWord bs).getLsbD k = bs.getD k false := by
  induction bs generalizing k with
  | nil => simp [controlWord]
  | cons b bs ih =>
    cases k with
    | zero => simp [controlWord]
    | succ k =>
      rw [List.getD_cons_succ, ← ih (Nat.lt_of_succ_lt hk)]
      simp [controlWord, hk, BitVec.getLsbD_eq_getElem (Nat.lt_of_succ_lt hk)]

/-- The bits of a control word are the bits it was made of. -/
theorem map_getLsbD_controlWord {bs : List Bool} (h : bs.length ≤ 16) :
    (List.range bs.length).map (controlWord bs).getLsbD = bs := by
  refine List.ext_getElem (by simp) fun k hk hk' => ?_
  rw [List.getElem_map, List.getElem_range, getLsbD_controlWord bs (hk'.trans_le h), List.getD_eq_getElem bs false hk']

namespace Writer

theorem writeBit_of_slot {w : Writer} {s : Nat} (b : Bool) (hs : w.slot = some s) (hn : w.nbits + 1 < 16) :
    w.writeBit b =
      { w with acc := w.acc ||| ((BitVec.ofBool b).setWidth 16 <<< w.nbits), nbits := w.nbits + 1 } := by
  simp only [writeBit, reserve, hs, accumulate, if_neg (Nat.ne_of_lt hn)]

/-- Bits that leave the slot open go into the accumulator above those already there. -/
theorem foldl_writeBit_of_slot (bs : List Bool) {w : Writer} {s : Nat} (hs : w.slot = some s)
    (hn : w.nbits + bs.length < 16) :
    bs.foldl (fun w b => w.writeBit b) w =
      { w with acc := w.acc ||| controlWord bs <<< w.nbits, nbits := w.nbits + bs.length } := by
  induction bs generalizing w with
  | nil => simp [controlWord]
  | cons b bs ih =>
    rw [List.length_cons] at hn
    rw [List.foldl_cons, writeBit_of_slot b hs (by omega), ih]
    · simp [controlWord, BitVec.shiftLeft_or_distrib, BitVec.or_assoc, ← BitVec.shiftLeft_add, Nat.add_comm,
        Nat.add_left_comm]
    · exact hs
    · simp only
      omega

/-- The first bits reserve a slot at the front and go into it. -/
theorem foldl_writeBit_empty {bs : List Bool} (hne : bs ≠ []) (hn : bs.length < 16) :
    bs.foldl (fun w b => w.writeBit b) empty =
      { buf := [0, 0], slot := some 0, acc := controlWord bs, nbits := bs.length } := by
  have hopen : bs.foldl (fun w b => w.writeBit b) empty = bs.foldl (fun w b => w.writeBit b) empty.reserve := by
    cases bs with
    | nil => exact absurd rfl hne
    | cons b bs => rfl
  rw [hopen, foldl_writeBit_of_slot (s := 0) bs rfl (by simpa [reserve, empty] using hn)]
  simp [reserve, empty]

theorem foldl_writeByte (vs : List Byte) (w : Writer) :
    vs.foldl (fun w v => w.writeByte v) w = { w with buf := w.buf ++ vs } := by
  induction vs generalizing w with
  | nil => simp
  | cons v vs ih => rw [List.foldl_cons, ih]; simp [writeByte]

end Writer

/-! ### One command from a fresh control word -/

/-- A command's bytes: the control word its bits make, then its raw operand (R64, R165). -/
theorem assemble_singleton {i : Instr} (hne : i.bits ≠ []) (hn : i.bits.length < 16) :
    assemble [i] = [loByte (controlWord i.bits), hiByte (controlWord i.bits)] ++ i.raw := by
  simp only [assemble, List.foldl_cons, List.foldl_nil, Writer.command, Writer.foldl_writeBit_empty hne hn,
    Writer.foldl_writeByte]
  rfl

section

variable {d : Buffer} {full : Bool} {p p' : Pos} {i : Instr}

theorem bits_length_of_hsqMeets (h : hsqMeets full i = true) : i.bits ≠ [] ∧ i.bits.length ≤ 4 := by
  rcases bits_of_hsqMeets h with hb | hb | ⟨c1, c0, hb⟩ <;> rw [hb] <;>
    exact ⟨List.cons_ne_nil _ _, Nat.le_of_ble_eq_true rfl⟩

theorem raw_length_le (i : Instr) : i.raw.length ≤ 3 := by
  cases i <;> exact Nat.le_of_ble_eq_true rfl

theorem encode_of_hsqMeets (h : hsqMeets full i = true) :
    encode i = [loByte (controlWord i.bits), hiByte (controlWord i.bits)] ++ i.raw := by
  obtain ⟨hne, hlen⟩ := bits_length_of_hsqMeets h
  rw [← assemble_singleton hne (hlen.trans_lt (by decide))]
  cases i with
  | lit | litStop | long | longx | eof | short => rfl
  | esc | run | byte | tail | erun | eesc | ebyte | hsqDec | hsqSizes | f7Dec | f7Enc | clear => cases h

theorem Buffer.hasAt_ofList (l rest : List Byte) : (Buffer.ofList (l ++ rest)).HasAt 0 l := by
  intro k hk
  rw [Nat.zero_add]
  exact ⟨by simp only [Buffer.ofList, List.length_append]; omega, List.getD_append l rest 0 k hk⟩

/-- From an empty queue the bits of the next control word are read back. -/
theorem getBits_controlWord {bs : List Bool} (hne : bs ≠ []) (hlen : bs.length ≤ 16) (hq : p.q >>> 1 = 0)
    (hat : d.HasAt p.cur [loByte (controlWord bs), hiByte (controlWord bs)]) :
    ∃ q, getBits d bs.length p = .ok (bs, { cur := p.cur + 2, q := q }) := by
  obtain ⟨k, hk⟩ := Nat.exists_eq_succ_of_ne_zero (mt List.length_eq_zero_iff.mp hne)
  have hl : p.cur + 2 ≤ d.len := (hat 1 Nat.one_lt_two).1
  have hw : d.half p.cur = controlWord bs := Buffer.half_eq_iff.mpr ⟨(hat 0 Nat.two_pos).2, (hat 1 Nat.one_lt_two).2⟩
  refine ⟨refillQ (controlWord bs) >>> k, ?_⟩
  rw [hk, getBits_of_refill (by omega) hq hl, ← Nat.succ_eq_add_one, ← hk, hw, map_getLsbD_controlWord hlen]

/-! ### Every position with five bytes left -/

theorem decodeLit_total (full : Bool) (h : p.cur + 1 ≤ d.len) : ∃ i p', decodeLit d full p = .ok (i, p') := by
  unfold decodeLit
  rw [readByte_ok h]
  cases full <;> exact ⟨_, _, rfl⟩

theorem decodeLong_total (h : p.cur + 3 ≤ d.len) : ∃ i p', decodeLong d p = .ok (i, p') := by
  have hx : readByte d { cur := p.cur + 2, q := p.q } = _ := readByte_ok h
  simp only [decodeLong, readWord_ok (Nat.le_of_succ_le h), hx]
  split
  · exact ⟨_, _, rfl⟩
  · split <;> exact ⟨_, _, rfl⟩

theorem decodeHsq_total (full : Bool) (h : p.cur + 5 ≤ d.len) : ∃ i p', decodeHsq d full p = .ok (i, p') := by
  have hl : p.cur + 2 ≤ d.len := by omega
  obtain ⟨bs, p4, hget, hlen, hcur⟩ := getBits_total (k := 4) (by decide) hl
  match bs, hlen with
  | [b1, b2, b3, b4], _ =>
    simp only [getBits_succ_ok_iff] at hget
    obtain ⟨p1, h1, p2, h2, p3, h3, p4, h4, hend⟩ := hget
    cases hend
    have c1 := getBit_cursor h1 (by omega)
    have c2 := getBit_cursor h2 c1.2
    have c3 := getBit_cursor h3 c2.2
    have c4 := getBit_cursor h4 c3.2
    cases b1 with
    | true => simpa only [decodeHsq, h1] using decodeLit_total full (by omega)
    | false =>
      cases b2 with
      | true => simpa only [decodeHsq, h1, h2] using decodeLong_total (by omega)
      | false =>
        simp only [decodeHsq, h1, h2, decodeShort, h3, h4, readByte_ok (show p4.cur + 1 ≤ d.len by omega)]
        exact ⟨_, _, rfl⟩

/-- A command consumes at most one control word and three raw bytes. -/
theorem decodeHsq_consumes_le (h : decodeHsq d full p = .ok (i, p')) (hl : p.cur + 2 ≤ d.len) : p'.cur ≤ p.cur + 5 := by
  obtain ⟨-, hmeets, p1, hget, -, rfl⟩ := decodeHsq_ok_iff.mp h
  have hk : i.bits.length ≤ 16 := (bits_length_of_hsqMeets hmeets).2.trans (by decide)
  obtain ⟨bs, q, hget', -, hcur⟩ := getBits_total hk hl
  cases hget.symm.trans hget'
  exact Nat.add_le_add (d := 3) hcur (raw_length_le i)

end

end Sys2Proof

namespace Sys2Proof.Proofs

/-- Settles O14: the encoding is one control word and the raw operand, and the decoder reads just these back. -/
theorem hsqDecodeInvertsEncode : Obligations.HsqDecodeInvertsEncode := by
  intro i full rest hwf hmeets
  obtain ⟨hne, hlen⟩ := bits_length_of_hsqMeets hmeets
  rw [encode_of_hsqMeets hmeets]
  obtain ⟨hword, hraw⟩ := Buffer.HasAt.append_iff.mp (Buffer.hasAt_ofList _ rest)
  obtain ⟨q, hbits⟩ := getBits_controlWord (p := { cur := 0, q := 0 }) hne (hlen.trans (by decide)) rfl hword
  refine ⟨_, decodeHsq_ok_iff.mpr ⟨hwf, hmeets, _, hbits, hraw, rfl⟩, ?_⟩
  rw [List.length_append]
  rfl

/-- Settles O16: the decoder's reads all fit in five bytes, and what it consumes is known from the command. -/
theorem everyHsqPatternIsACommand : Obligations.EveryHsqPatternIsACommand := by
  intro d full p hl
  obtain ⟨i, p', h⟩ := decodeHsq_total full hl
  have hreads := ReadsOn.decodeHsq full (d := d) (p := p) (by omega)
  rw [h] at hreads
  exact ⟨i, p', h, (decodeHsq_ok_iff.mp h).1, hreads.1, decodeHsq_consumes_le h (by omega)⟩

end Sys2Proof.Proofs
end

section
/-! PROOFS. The F7 decoder on a list of bytes, by its window (R74), and the fields of the assembler forms (R78). -/

namespace Sys2Proof

open Sys2Proof.Machine Sys2Proof.Safety

/-! ### The F7 window at the front of a list -/

/-- With three bytes there, the window says which element stands at the front (R120). -/
theorem decodeF7_window (b x y : Byte) (rest : List Byte) :
    decodeF7 (Buffer.ofList (b :: x :: y :: rest)) 0 =
      if b = Config.f7Ctl ∧ x = 0x01 ∧ y = Config.f7Ctl then some .esc
      else if b = Config.f7Ctl ∧ Config.f7DecMin < x.toNat then some (.run x y)
      else some (.byte b) := by
  have hlen : 3 ≤ (b :: x :: y :: rest).length - 0 := Nat.le_add_left 3 rest.length
  have hmore : ¬ (b :: x :: y :: rest).length ≤ 0 := Nat.not_succ_le_zero _
  simp only [decodeF7, Buffer.ofList, hlen, hmore, gt_iff_lt, true_and, if_true, if_false]
  rfl

theorem decodeF7_tail (b : Byte) {rest : List Byte} (h : rest.length ≤ 1) :
    decodeF7 (Buffer.ofList (b :: rest)) 0 = some (.tail b) := by
  have hlen : ¬ 3 ≤ (b :: rest).length - 0 := Nat.not_le_of_lt (Nat.succ_lt_succ (Nat.lt_succ_of_le h))
  have hmore : ¬ (b :: rest).length ≤ 0 := Nat.not_succ_le_zero _
  simp only [decodeF7, Buffer.ofList, hlen, hmore, gt_iff_lt, false_and, if_false]
  rfl

/-! ### The assembler forms -/

theorem shortLength_ofNat {n : Nat} (h2 : 2 ≤ n) (h5 : n ≤ 5) : shortLength (BitVec.ofNat 2 (n - 2)) = n := by
  rw [shortLength, BitVec.toNat_ofNat]
  omega

theorem longLength_ofNat {n : Nat} (h2 : 2 ≤ n) (h9 : n ≤ 9) : longLength (BitVec.ofNat 3 (n - 2)) = n := by
  rw [longLength, BitVec.toNat_ofNat]
  omega

theorem extraLength_ofNat {n : Nat} (h2 : 2 ≤ n) (h257 : n ≤ 257) : extraLength (BitVec.ofNat 8 (n - 2)) = n := by
  rw [extraLength, BitVec.toNat_ofNat]
  omega

theorem shortDistance_ofNat {d : Nat} (h1 : 1 ≤ d) (h256 : d ≤ 256) : shortDistance (BitVec.ofNat 8 (256 - d)) = d := by
  rw [shortDistance, BitVec.toNat_ofNat]
  omega

theorem longDistance_ofNat {d : Nat} (h1 : 1 ≤ d) (h8192 : d ≤ 8192) :
    longDistance (BitVec.ofNat 13 (8192 - d)) = d := by
  rw [longDistance, BitVec.toNat_ofNat]
  omega

/-- The fields of a length above 2 are not 0, as R67 and R68 require. -/
theorem ofNat_ne_zero_of_pos {w m : Nat} (h0 : 0 < m) (hm : m < 2 ^ w) : BitVec.ofNat w m ≠ 0 := by
  rw [BitVec.toNat_ne, BitVec.toNat_ofNat, Nat.mod_eq_of_lt hm]
  exact Nat.ne_of_gt h0

end Sys2Proof

namespace Sys2Proof.Proofs

open Sys2Proof.Machine Sys2Proof.Safety

/-- Settles O17: the window tells the three patterns of R74 apart; with fewer than three bytes there is none. -/
theorem f7DecodeInvertsEncode : Obligations.F7DecodeInvertsEncode := by
  refine ⟨fun rest => ?_, fun nn vv rest hwf => ?_, fun b x y rest hfall => ?_, fun b rest => decodeF7_tail b⟩
  · exact decodeF7_window _ _ _ rest
  · have hrun : Config.f7DecMin < nn.toNat := of_decide_eq_true hwf
    have hesc : nn ≠ 0x01 := fun h => absurd (h ▸ hrun) (by decide)
    refine (decodeF7_window _ nn vv rest).trans ?_
    rw [if_neg fun h => hesc h.2.1, if_pos ⟨rfl, hrun⟩]
  · refine (decodeF7_window b x y rest).trans ?_
    rcases hfall with hb | ⟨hx, hxy⟩
    · rw [if_neg fun h => hb h.1, if_neg fun h => hb h.1]
    · rw [if_neg fun h => hxy h.2, if_neg fun h => Nat.not_lt.mpr hx h.2]

/-- Settles O20: within its range each field of an assembler form holds its operand exactly, and no count field is 0. -/
theorem assemblerFormsReachTheirDistance : Obligations.AssemblerFormsReachTheirDistance := by
  refine ⟨fun d n h1 hd h2 hn => ?_, fun d n h1 hd h3 hn => ?_, fun d n h1 hd h3 hn => ?_⟩
  · exact ⟨shortDistance_ofNat h1 hd, shortLength_ofNat h2 hn, rfl⟩
  · refine ⟨longDistance_ofNat h1 hd, longLength_ofNat (by omega) hn, bne_iff_ne.mpr ?_⟩
    exact ofNat_ne_zero_of_pos (by omega) (by omega)
  · refine ⟨longDistance_ofNat h1 hd, extraLength_ofNat (by omega) hn, bne_iff_ne.mpr ?_⟩
    exact ofNat_ne_zero_of_pos (by omega) (by omega)

/-- Settles O13: the decoders compute each word's answer. -/
theorem handWrittenWordsDecode : Obligations.HandWrittenWordsDecode :=
  ⟨rfl, rfl, rfl, rfl, rfl, rfl, rfl, rfl, rfl, rfl, rfl, rfl, rfl, rfl, rfl, rfl⟩

end Sys2Proof.Proofs
end

section
/-! PROOFS. The Bit Reader's arithmetic in numbers, and its delivery of one word after another (R90, R91, R92, R94). -/

namespace Sys2Proof

/-! ### Words and queues as numbers -/

/-- A word of the buffer is little-endian (R41). -/
theorem Buffer.toNat_half (d : Buffer) (a : Nat) :
    (d.half a).toNat = (d.byte a).toNat + 256 * (d.byte (a + 1)).toNat := by
  have hor := Nat.two_pow_add_eq_or_of_lt (d.byte a).isLt (d.byte (a + 1)).toNat
  rw [half, halfOf, BitVec.toNat_append, Nat.shiftLeft_eq, Nat.mul_comm, ← hor, Nat.add_comm]

/-- The sentinel lies above all bits of the shifted word, so the union is a sum (R90). -/
theorem toNat_refillQ (w : Half) : (refillQ w).toNat = 0x8000 + w.toNat / 2 := by
  have hlt : w.toNat / 2 < 2 ^ 15 := Nat.div_lt_of_lt_mul w.isLt
  have hor := Nat.two_pow_add_eq_or_of_lt hlt 1
  rw [refillQ, BitVec.toNat_or, BitVec.toNat_ushiftRight, Nat.shiftRight_eq_div_pow]
  exact hor.symm

theorem refillQ_ne_zero (w : Half) : refillQ w ≠ 0 := fun h0 => by
  have hbound := two_pow_15_le_refillQ w
  rw [h0] at hbound
  exact absurd hbound (by decide)

/-- After the word's 16 bits only the sentinel is left (R94 c). -/
theorem refillQ_ushiftRight_15 (w : Half) : refillQ w >>> 15 = 1 := by
  have hw := w.isLt
  have hdiv : (0x8000 + w.toNat / 2) / 2 ^ 15 = 1 := by omega
  refine BitVec.eq_of_toNat_eq ?_
  rw [BitVec.toNat_ushiftRight, Nat.shiftRight_eq_div_pow, toNat_refillQ, hdiv]
  rfl

theorem toNat_ushiftRight_one (q : Half) : (q >>> 1).toNat = q.toNat / 2 := by
  rw [BitVec.toNat_ushiftRight, Nat.shiftRight_eq_div_pow, Nat.pow_one]

/-- The zero test of R90, in numbers. -/
theorem ushiftRight_one_eq_zero_iff {q : Half} : q >>> 1 = 0 ↔ q.toNat / 2 = 0 := by
  rw [BitVec.toNat_eq, toNat_ushiftRight_one]
  rfl

/-! ### GetBit -/

section

variable {d : Buffer} {p : Pos}

theorem getBit_of_queue (hq : p.q >>> 1 ≠ 0) :
    getBit d p = .ok (p.q.getLsbD 0, { cur := p.cur, q := p.q >>> 1 }) := by
  rw [getBit, if_neg hq]

theorem getBit_of_refill (hq : p.q >>> 1 = 0) (hl : p.cur + 2 ≤ d.len) :
    getBit d p = .ok ((d.half p.cur).getLsbD 0, { cur := p.cur + 2, q := refillQ (d.half p.cur) }) := by
  rw [getBit, if_pos hq, if_neg (Nat.not_lt.mpr hl)]

theorem getBit_error (hq : p.q >>> 1 = 0) (hl : d.len < p.cur + 2) :
    getBit d p = .error { addr := p.cur, need := 2 } := by
  rw [getBit, if_pos hq, if_pos hl]

/-- After a bit the queue is not 0, and only an emptied queue moves the cursor (R94 d, e). -/
theorem getBit_queue_and_cursor {b : Bool} {p' : Pos} (h : getBit d p = .ok (b, p')) :
    p'.q ≠ 0 ∧ (p.q >>> 1 ≠ 0 → p'.cur = p.cur) := by
  rcases getBit_cases d p with ⟨hq, e⟩ | ⟨hq, -, e⟩ | ⟨-, -, e⟩
  · cases e.symm.trans h
    exact ⟨hq, fun _ => rfl⟩
  · cases e.symm.trans h
    exact ⟨refillQ_ne_zero _, fun hne => absurd hq hne⟩
  · cases e.symm.trans h

/-- One run of bits after another. -/
theorem getBits_add {m n : Nat} {p1 p2 : Pos} {bs cs : List Bool} (hm : getBits d m p = .ok (bs, p1))
    (hn : getBits d n p1 = .ok (cs, p2)) : getBits d (m + n) p = .ok (bs ++ cs, p2) := by
  induction m generalizing p bs with
  | zero =>
    cases hm
    rwa [Nat.zero_add]
  | succ m ih =>
    rw [Nat.succ_add]
    rw [getBits] at hm
    split at hm
    · cases hm
    · next hb =>
      split at hm
      · cases hm
      · next hbs =>
        cases hm
        exact getBits_succ_ok_iff.mpr ⟨_, hb, ih hbs⟩

/-- The 17th bit is the low bit of the next word: the sentinel is not returned (R94 c). -/
theorem getBits_17_of_refill (hq : p.q >>> 1 = 0) (hl : p.cur + 4 ≤ d.len) :
    getBits d 17 p =
      .ok ((List.range 16).map (d.half p.cur).getLsbD ++ [(d.half (p.cur + 2)).getLsbD 0],
        { cur := p.cur + 4, q := refillQ (d.half (p.cur + 2)) }) := by
  have hfirst := getBits_of_refill (Nat.le_refl 15) hq (Nat.le_trans (Nat.add_le_add_left (by decide) _) hl)
  rw [refillQ_ushiftRight_15] at hfirst
  have hspent : (1 : Half) >>> 1 = 0 := by decide
  exact getBits_add hfirst (getBits_of_refill (Nat.zero_le 15) (p := { cur := p.cur + 2, q := 1 }) hspent hl)

end

end Sys2Proof

namespace Sys2Proof.Proofs

/-- Settles O10: the three branches of GetBit, each read as numbers. -/
theorem getBitRefillArithmetic : Obligations.GetBitRefillArithmetic := by
  refine ⟨fun d p hq => ?_, fun d p hq hl => ?_, fun d p hq hl => ?_⟩
  · have hne : p.q >>> 1 ≠ 0 := mt ushiftRight_one_eq_zero_iff.mp hq
    exact ⟨_, getBit_of_queue hne, rfl, toNat_ushiftRight_one p.q⟩
  · rw [← Buffer.toNat_half, ← Nat.testBit_zero]
    exact ⟨_, getBit_of_refill (ushiftRight_one_eq_zero_iff.mpr hq) hl, rfl, toNat_refillQ _⟩
  · exact getBit_error (ushiftRight_one_eq_zero_iff.mpr hq) hl

/-- Settles O11: a refilled queue holds exactly the word's other 15 bits, and the next bit refills again. -/
theorem refillDeliversSixteenBits : Obligations.RefillDeliversSixteenBits := by
  refine ⟨fun d p hq hl => ⟨fun k hk => ?_, ?_, fun hl4 => ?_⟩, fun d p b p' h => getBit_queue_and_cursor h⟩
  · exact getBits_of_refill hk hq hl
  · exact refillQ_ushiftRight_15 _
  · exact getBits_17_of_refill hq hl4

/-- Settles O12: the two raw reads, in bounds and out of them; the word is the buffer's little-endian one. -/
theorem rawReadsAtTheCursor : Obligations.RawReadsAtTheCursor := by
  refine ⟨fun d p => readByte_ok, fun d p => readByte_error, fun d p hl => ?_, fun d p => readWord_error⟩
  exact ⟨d.half p.cur, readWord_ok hl, Buffer.toNat_half d p.cur⟩

end Sys2Proof.Proofs
end

section
/-! PROOFS. Back-references (R108): the copy loop byte by byte, its period, and what is raised before its first byte. -/

namespace Sys2Proof.Machine

open Sys2Proof.Safety

theorem raised_raise (s : State) (x : Cause) (addr info : Nat) : raised s x addr info (s.raise x addr info) := rfl

/-! ### The copy -/

/-- After the loop each byte it appended equals the byte d places before it: the loop writes each byte
once. -/
theorem State.outByte_copyLoop {d n k : Nat} {s : State} (hd : d ≤ s.olen) (hk : k < n) :
    (State.copyLoop d n s).outByte (s.olen + k) = (State.copyLoop d n s).outByte (s.olen + k - d) := by
  induction n generalizing s k with
  | zero => exact absurd hk (Nat.not_lt_zero k)
  | succ n ih =>
    rw [State.copyLoop]
    cases k with
    | zero =>
      have hkept (a : Nat) (ha : a ≤ s.olen) := State.outByte_copyLoop_other d n (s.push (s.outByte (s.olen - d))) a
        (.inl (Nat.lt_succ_of_le ha))
      rw [Nat.add_zero, hkept _ (Nat.le_refl _), hkept _ (Nat.sub_le _ _), State.outByte_push, State.outByte_push,
        if_pos rfl, ite_self]
    | succ k =>
      have hrest := ih (s := s.push (s.outByte (s.olen - d))) (Nat.le_succ_of_le hd) (Nat.lt_of_succ_lt_succ hk)
      rwa [State.push_olen, Nat.add_assoc, Nat.add_comm 1 k] at hrest

theorem copied_copyLoop {d : Nat} {s : State} (n : Nat) (hd : d ≤ s.olen) : copied s d n (State.copyLoop d n s) :=
  ⟨State.copyLoop_eq d n s, fun _ hk => State.outByte_copyLoop hd hk, State.outByte_copyLoop_other d n s⟩

theorem State.copy_ok {s : State} {d n : Nat} (hd : d ≤ s.olen) (hn : s.olen + n ≤ s.params.outCap) :
    s.copy d n = .ok (State.copyLoop d n s) := by
  rw [State.copy, if_neg (Nat.not_lt.mpr hd), State.room_ok hn, Raising.andThen_ok]

theorem copy_outcome_copied {s : State} {d n : Nat} (hd : d ≤ s.olen) (hn : s.olen + n ≤ s.params.outCap) :
    ∃ t, (s.copy d n).outcome = .next t ∧ copied s d n t := by
  rw [State.copy_ok hd hn]
  exact ⟨_, rfl, copied_copyLoop n hd⟩

/-- A copied byte is found by going back whole distances into the last d bytes before the copy. -/
theorem outByte_of_copied {s t : State} {d n k : Nat} (h : copied s d n t) (h1 : 1 ≤ d) (hd : d ≤ s.olen)
    (hk : k < n) :
    t.outByte (s.olen + k) = s.outByte (s.olen - d + k % d) := by
  obtain ⟨-, hback, hother⟩ := h
  induction k using Nat.strong_induction_on with
  | _ k ih =>
    rw [hback k hk]
    by_cases hlt : k < d
    · rw [Nat.mod_eq_of_lt hlt, hother _ (.inl (by omega)), Nat.sub_add_comm hd]
    · have hge : d ≤ k := Nat.le_of_not_lt hlt
      rw [Nat.add_sub_assoc hge, ih (k - d) (by omega) (by omega), ← Nat.mod_eq_sub_mod hge]

/-! ### Raises before the first byte -/

/-- Only back-references have a distance, and they append. -/
theorem appends_of_distance_pos {i : Instr} (h : 0 < distance i) : appends i = true := by
  cases i with
  | long | longx | short => rfl
  | lit | litStop | eof | esc | run | byte | tail | erun | eesc | ebyte | hsqDec | hsqSizes | f7Dec | f7Enc | clear =>
    exact absurd h (Nat.lt_irrefl 0)

theorem AppendStep.raised_badReference {i : Instr} {s t : State} (h : AppendStep i s t) (href : s.olen < distance i) :
    raised s .invalidBackReference s.cur (distance i) t := by
  cases h with
  | badReference => exact raised_raise ..
  | fits _ _ hin | noRoom hin => exact absurd href (Nat.not_lt_of_le hin)

theorem AppendStep.raised_noRoom {i : Instr} {s t : State} (h : AppendStep i s t) (href : distance i ≤ s.olen)
    (hfull : s.params.outCap < s.olen + produced i) : raised s .sizeLimitExceeded s.cur 2 t := by
  cases h with
  | noRoom => exact raised_raise ..
  | fits _ _ _ hroom => exact absurd hfull (Nat.not_lt_of_le hroom)
  | badReference hout => exact absurd href (Nat.not_le_of_lt hout)

end Sys2Proof.Machine

namespace Sys2Proof.Proofs

open Sys2Proof.Machine Sys2Proof.Safety

/-- Settles O24: the three references are one copy, and a bad reference or missing room is found before its loop. -/
theorem backReferencesCopyByteByByte : Obligations.BackReferencesCopyByteByByte := by
  refine ⟨fun field count s => copy_outcome_copied, fun field x s => copy_outcome_copied,
    fun count b s => copy_outcome_copied, fun i s href => ?_, fun i s hpos href hfull => ?_⟩
  · obtain ⟨t, hx, ht⟩ := exec_appends (appends_of_distance_pos (Nat.zero_lt_of_lt href)) s
    exact ⟨t, hx, ht.raised_badReference href⟩
  · obtain ⟨t, hx, ht⟩ := exec_appends (appends_of_distance_pos hpos) s
    exact ⟨t, hx, ht.raised_noRoom href hfull⟩

/-- Settles O25, by going back one distance at a time. -/
theorem overlappingCopyRepeatsItsPeriod : Obligations.OverlappingCopyRepeatsItsPeriod :=
  fun _ _ n h1 hd hn => ⟨_, State.copy_ok hd hn, fun _ => outByte_of_copied (copied_copyLoop n hd) h1 hd⟩

end Sys2Proof.Proofs
end

section
/-! PROOFS. Steps of the loops: the output only grows until a fault, and a step that stays in its loop moves CUR on. -/

namespace Sys2Proof

open Sys2Proof.Safety

/-! ### How far a command or an element moves the cursor -/

theorem getBit_cur_le {d : Buffer} {p p' : Pos} {b : Bool} (h : getBit d p = .ok (b, p')) : p.cur ≤ p'.cur := by
  rcases getBit_cases d p with ⟨-, e⟩ | ⟨-, -, e⟩ | ⟨-, -, e⟩ <;> cases e.symm.trans h
  · exact Nat.le_refl _
  · exact Nat.le_add_right _ _

theorem getBits_cur_le {d : Buffer} {p p' : Pos} {bs : List Bool} (h : getBits d bs.length p = .ok (bs, p')) :
    p.cur ≤ p'.cur := by
  induction bs generalizing p with
  | nil => cases h; exact Nat.le_refl _
  | cons b bs ih =>
    obtain ⟨p1, h1, h2⟩ := getBits_succ_ok_iff.mp h
    exact (getBit_cur_le h1).trans (ih h2)

/-- A literal and a reference have at least one raw byte (R65 to R68). -/
theorem raw_length_pos {full : Bool} {i : Instr} (h : hsqMeets full i = true) (ha : appends i = true) :
    0 < i.raw.length := by
  cases i with
  | lit | long | longx | short => exact Nat.succ_pos _
  | litStop | eof => cases ha
  | esc | run | byte | tail | erun | eesc | ebyte | hsqDec | hsqSizes | f7Dec | f7Enc | clear => cases h

/-- A command that appends moves the cursor forward by its raw bytes, the last of them below the length. -/
theorem decodeHsq_advances {d : Buffer} {full : Bool} {p p' : Pos} {i : Instr}
    (h : decodeHsq d full p = .ok (i, p')) (ha : appends i = true) : p.cur < p'.cur ∧ p'.cur ≤ d.len := by
  obtain ⟨-, hmeets, p1, hbits, hraw, rfl⟩ := decodeHsq_ok_iff.mp h
  have hpos := raw_length_pos hmeets ha
  have hle := getBits_cur_le hbits
  obtain ⟨hlast, -⟩ := hraw (i.raw.length - 1) (by omega)
  exact ⟨by simp only; omega, by simp only; omega⟩

theorem decodeF7_consumed_pos {d : Buffer} {cur : Nat} {i : Instr} (h : decodeF7 d cur = some i) : 0 < consumed i := by
  unfold decodeF7 at h
  split at h
  · cases h
  · iterate 3 (split at h; · cases h; exact Nat.succ_pos _)
    cases h; exact Nat.succ_pos _

theorem selectF7_consumed_pos {d : Buffer} {cur : Nat} {i : Instr} (h : selectF7 d cur = some i) : 0 < consumed i := by
  unfold selectF7 at h
  split at h
  · cases h
  · next hmore =>
    obtain ⟨-, hmax⟩ := measure_bounds (Nat.lt_of_not_le hmore)
    split at h
    · next hrun =>
      cases h
      rw [consumed, BitVec.toNat_ofNat, Nat.mod_eq_of_lt (by omega)]
      exact Nat.zero_lt_of_lt hrun
    · split at h <;> cases h <;> exact Nat.succ_pos _

end Sys2Proof

namespace Sys2Proof.Machine

open Sys2Proof.Safety

/-- An appending instruction that raises nothing moves the cursor by what it consumes. -/
theorem AppendStep.cur {i : Instr} {s t : State} (h : AppendStep i s t) (hok : t.ph ≠ .fault) :
    t.cur = s.cur + consumed i := by
  cases h with
  | fits vs => exact congrArg (· + consumed i) (s.pushList_cur vs)
  | badReference | noRoom => exact absurd rfl hok

theorem State.hsqFinish_ends (s : State) (r : StopReason) :
    (s.hsqFinish r).ph = .done ∨ (s.hsqFinish r).ph = .fault := by
  rcases s.hsqFinish_cases r with ⟨-, e⟩ | ⟨-, e⟩ <;> rw [e]
  · exact .inl rfl
  · exact .inr rfl

/-- R110, R126: the command or the element is one that appends, and its bytes are there. -/
theorem EngineStep.cur_lt {s t : State} (h : EngineStep s t) (hloop : inLoop s) (hph : t.ph = s.ph) :
    s.cur < t.cur ∧ t.cur ≤ s.ilen := by
  obtain ⟨hfault, hdone⟩ : t.ph ≠ .fault ∧ t.ph ≠ .done := by
    rcases hloop with hp | hp | hp <;> rw [hph, hp] <;> decide
  cases h with
  | wait hs => cases hloop.busy.symm.trans ((settled_iff s).mp hs)
  | header hp => exact absurd hp hloop.phase_ne.1
  | truncated => exact absurd rfl hfault
  | command _ hd ha ht =>
    have hcur := ht.cur hfault
    rw [(hsqMeets_cases (decodeHsq_meets hd)).1, Nat.add_zero, State.withPos_cur] at hcur
    rw [hcur]
    exact decodeHsq_advances hd ha
  | stop => exact ((s.withPos _).hsqFinish_ends _).elim (absurd · hdone) (absurd · hfault)
  | element hd hi ht =>
    have hpos := hd.elim (fun hd => decodeF7_consumed_pos hd.2) (fun hd => selectF7_consumed_pos hd.2)
    rw [ht.cur hfault]
    exact ⟨Nat.lt_add_of_pos_right hpos, hi.fits⟩
  | finish => exact absurd rfl hdone

/-! ### The output -/

/-- Every byte of OUT below OLEN stays, OLEN does not fall, and DSIZE is as before. -/
structure GrowsOutput (s t : State) : Prop where
  dsize : t.dsize = s.dsize
  olen : s.olen ≤ t.olen
  below : ∀ a < s.olen, t.outByte a = s.outByte a

theorem GrowsOutput.refl (s : State) : GrowsOutput s s := ⟨rfl, Nat.le_refl _, fun _ _ => rfl⟩

theorem growsOutput_advance_pushList (s : State) (vs : List Byte) (k : Nat) :
    GrowsOutput s ((s.pushList vs).advance k) where
  dsize := by rw [State.advance_pushList_eq]
  olen := by rw [State.advance_pushList_eq]; exact Nat.le_add_right _ _
  below a ha := s.outByte_pushList_other vs a (.inl ha)

theorem AppendStep.growsOutput {i : Instr} {s t : State} (h : AppendStep i s t) (hok : t.ph ≠ .fault) :
    GrowsOutput s t := by
  cases h with
  | fits vs => exact growsOutput_advance_pushList s vs _
  | badReference | noRoom => exact absurd rfl hok

theorem growsOutput_hsqFinish {s : State} {r : StopReason} (hok : (s.hsqFinish r).ph ≠ .fault) :
    GrowsOutput s (s.hsqFinish r) := by
  rcases s.hsqFinish_cases r with ⟨-, e⟩ | ⟨-, e⟩ <;> rw [e] at hok ⊢
  · exact ⟨rfl, Nat.le_refl _, fun _ _ => rfl⟩
  · exact absurd rfl hok

/-- The header parse sets DSIZE; every other step of the engine that does not fault only adds to the output. -/
theorem EngineStep.growsOutput {s t : State} (h : EngineStep s t) (hp : s.ph ≠ .hdr) (hok : t.ph ≠ .fault) :
    GrowsOutput s t := by
  cases h with
  | wait => exact .refl s
  | header hp' => exact absurd hp' hp
  | truncated => exact absurd rfl hok
  | command _ _ _ ht =>
    obtain ⟨hdsize, holen, hbelow⟩ := ht.growsOutput hok
    exact ⟨hdsize, holen, hbelow⟩
  | stop =>
    obtain ⟨hdsize, holen, hbelow⟩ := growsOutput_hsqFinish hok
    exact ⟨hdsize, holen, hbelow⟩
  | element _ _ ht => exact ht.growsOutput hok
  | finish => exact ⟨rfl, Nat.le_refl _, fun _ _ => rfl⟩

end Sys2Proof.Machine

namespace Sys2Proof.Proofs

open Sys2Proof.Machine Sys2Proof.Safety

/-- Settles O28: the first DSIZE bytes lie below OLEN, and a step that does not fault only adds to the output. -/
theorem overrunNeverReachesTheResult : Obligations.OverrunNeverReachesTheResult := by
  intro s t hm hp hfull hx hok
  obtain ⟨u, hu, hstep⟩ := engine_step hm
  have hhdr : s.ph ≠ .hdr := by rw [hp]; decide
  obtain ⟨hdsize, holen, hbelow⟩ := (next_unique hu hx ▸ hstep).growsOutput hhdr hok
  exact ⟨hdsize, hfull.trans holen, fun a ha => hbelow a (Nat.lt_of_lt_of_le ha hfull)⟩

/-- Settles O29: the engine's step inverted, from the state with its turn taken. -/
theorem loopStepsMoveTheCursor : Obligations.LoopStepsMoveTheCursor := by
  intro s t hm hloop hx hph
  obtain ⟨u, hu, hstep⟩ := engine_step hm
  exact (next_unique hu hx ▸ hstep).cur_lt hloop hph

end Sys2Proof.Proofs
end

section
/-! PROOFS. What a step runs, by phase (R101, R120, R130, R16), and the literal, the HSQ finish and the header parse as
exact next states (R102, R103, R109, R100). -/

namespace Sys2Proof

theorem decodeHsq_of_literal_bit {d : Buffer} {full : Bool} {p p1 : Pos} (h : getBit d p = .ok (true, p1)) :
    decodeHsq d full p = decodeLit d full p1 := by
  simp only [decodeHsq, h]

theorem decodeLit_full (d : Buffer) (p : Pos) : decodeLit d true p = .ok (.litStop, p) := rfl

theorem decodeLit_of_byte {d : Buffer} {p : Pos} (hl : p.cur < d.len) :
    decodeLit d false p = .ok (.lit (d.byte p.cur), { p with cur := p.cur + 1 }) := by
  simp only [decodeLit, readByte_ok (Nat.succ_le_of_lt hl), Bool.false_eq_true, if_false]

theorem decodeLit_cut_short {d : Buffer} {p : Pos} (hl : d.len ≤ p.cur) :
    decodeLit d false p = .error { addr := p.cur, need := 1 } := by
  simp only [decodeLit, readByte_error (Nat.lt_succ_of_le hl), Bool.false_eq_true, if_false]

end Sys2Proof

namespace Sys2Proof.Machine

open Sys2Proof.Safety

/-! ### The step by phase -/

section

variable {s : State} (hq : s.inputs = [])
include hq

theorem step_hdr (hp : s.ph = .hdr) : step s = .next s.hdrStep :=
  step_of_moved ((fetch_nil hq).trans (by rw [engineTurn, hp]))

theorem fetch_hsq (hp : s.ph = .hsq) : fetch s = fetchHsq s := (fetch_nil hq).trans (by rw [engineTurn, hp])

theorem step_hsq_command (hp : s.ph = .hsq) {i : Instr} {p : Pos} (hd : decodeHsq s.buffer s.full s.pos = .ok (i, p)) :
    step s = exec i (s.withPos p) :=
  step_of_run ((fetch_hsq hq hp).trans (by rw [fetchHsq, hd]))

theorem step_hsq_truncated (hp : s.ph = .hsq) {e : Trunc} (hd : decodeHsq s.buffer s.full s.pos = .error e) :
    step s = .next (s.truncated e) :=
  step_of_moved ((fetch_hsq hq hp).trans (by rw [fetchHsq, hd]))

theorem step_f7d_element (hp : s.ph = .f7d) {i : Instr} (hd : decodeF7 s.buffer s.cur = some i) : step s = exec i s :=
  step_of_run ((fetch_nil hq).trans (by rw [engineTurn, hp]; simp only [fetchF7d, hd]))

theorem step_f7e_element (hp : s.ph = .f7e) {i : Instr} (hd : selectF7 s.buffer s.cur = some i) : step s = exec i s :=
  step_of_run ((fetch_nil hq).trans (by rw [engineTurn, hp]; simp only [fetchF7e, hd]))

end

theorem step_ctrl_instruction {s : State} {v : Word} {rest : List Input} {i : Instr}
    (h : s.inputs = .writeReg 0x00 v :: rest) (hd : decodeCtrl v = some i) :
    step s = exec i { s with inputs := rest } := by
  have hf : fetch s = hostWrite { s with inputs := rest } .ctrl v := fetch_cons h
  simp only [hostWrite, hd] at hf
  exact step_of_run hf

/-! ### Literals and the finish -/

theorem State.full_of_le {s : State} (h : s.dsize.toNat ≤ s.olen) : s.full = true := decide_eq_true h

theorem State.full_of_lt {s : State} (h : s.olen < s.dsize.toNat) : s.full = false :=
  decide_eq_false (Nat.not_le_of_lt h)

theorem appended_pushList (s : State) (vs : List Byte) (k : Nat) : appended s vs k ((s.pushList vs).advance k) :=
  ⟨s.advance_pushList_eq vs k, s.outByte_pushList vs, s.outByte_pushList_other vs⟩

theorem State.hsqFinish_of_full {s : State} (r : StopReason) (h : s.dsize.toNat ≤ s.olen) :
    s.hsqFinish r =
      { s with rlen := s.dsize.toNat, ovr := decide (s.olen > s.dsize.toNat), stopr := r, ph := .done } :=
  if_neg (Nat.not_lt.mpr h)

theorem State.hsqFinish_of_short {s : State} (r : StopReason) (h : s.olen < s.dsize.toNat) :
    s.hsqFinish r = s.raise .formatError s.cur 2 := if_pos h

theorem exec_eof_of_full (field : BitVec 13) {s : State} (h : s.dsize.toNat ≤ s.olen) :
    exec (.eof field) s =
      .next { s with rlen := s.dsize.toNat, ovr := decide (s.olen > s.dsize.toNat), stopr := .eof, ph := .done } :=
  congrArg Host.Outcome.next (State.hsqFinish_of_full .eof h)

theorem exec_litStop_of_full {s : State} (h : s.dsize.toNat ≤ s.olen) :
    exec .litStop s =
      .next { s with rlen := s.dsize.toNat, ovr := decide (s.olen > s.dsize.toNat), stopr := .litFull, ph := .done } :=
  congrArg Host.Outcome.next (State.hsqFinish_of_full .litFull h)

/-! ### The header parse -/

/-- The checksum is a sum of numbers modulo 256 (R62). -/
theorem toNat_headerSum (d : Buffer) :
    (headerSum d).toNat = ((d.byte 0).toNat + (d.byte 1).toNat + (d.byte 2).toNat + (d.byte 3).toNat +
      (d.byte 4).toNat + (d.byte 5).toNat) % 256 := by
  simp only [headerSum, BitVec.toNat_add, Nat.reducePow, Nat.mod_add_mod]

/-- A header that is there is parsed; OPL tells whether the operation ends with it (R100, R142). -/
theorem State.hdrStep_of_header {s : State} (hl : 6 ≤ s.ilen) :
    s.hdrStep = { s.parsed with
      rlen := if s.opl = .hsqSizes then 0 else s.rlen
      stopr := if s.opl = .hsqSizes then .endIn else s.stopr
      ph := if s.opl = .hsqSizes then .done else .hsq } := by
  rcases s.hdrStep_cases with ⟨hshort, -⟩ | ⟨-, ho, e⟩ | ⟨-, ho, e⟩
  · exact absurd hl (Nat.not_le_of_lt hshort)
  · simp only [e, ho, if_true]
    rfl
  · simp only [e, ho, if_false]
    rfl

end Sys2Proof.Machine

namespace Sys2Proof.Proofs

open Sys2Proof.Machine Sys2Proof.Safety

/-- Settles O7: the four fetches, each with its decoder's answer. -/
theorem stepRunsTheDecodedInstruction : Obligations.StepRunsTheDecodedInstruction :=
  ⟨fun _ _ _ hq hp hd => step_hsq_command hq hp hd, fun _ _ hq hp hd => step_f7d_element hq hp hd,
    fun _ _ hq hp hd => step_f7e_element hq hp hd, fun _ _ _ _ h hd => step_ctrl_instruction h hd⟩

/-- Settles O22: one byte appended or no room for it, and the raw byte read or missing. -/
theorem literalAppendsItsByte : Obligations.LiteralAppendsItsByte := by
  refine ⟨fun b s hroom => ⟨s.push b, ?_, appended_pushList s [b] 0⟩,
    fun b s hfull => ⟨s.raise .sizeLimitExceeded s.cur 2, ?_, raised_raise ..⟩, fun s p hq hp hbit hlt => ?_⟩
  · rw [exec, execLit, State.append_ok hroom, Raising.outcome_ok]
  · rw [exec, execLit, State.append_full hfull, Raising.outcome_raised]
  · have hd : decodeHsq s.buffer s.full s.pos = decodeLit s.buffer false p := by
      rw [decodeHsq_of_literal_bit hbit, State.full_of_lt hlt]
    refine ⟨fun hl => ?_, fun hl => ?_⟩
    · exact step_hsq_command hq hp (hd.trans (decodeLit_of_byte hl))
    · exact ⟨_, step_hsq_truncated hq hp (hd.trans (decodeLit_cut_short hl)), raised_raise ..⟩

/-- Settles O23: at full output the literal bit alone is the command LIT.stop. -/
theorem literalAtFullOutputStops : Obligations.LiteralAtFullOutputStops := by
  refine ⟨fun s => exec_litStop_of_full, fun s p hq hp hbit hfull => ?_⟩
  have hd : decodeHsq s.buffer s.full s.pos = .ok (.litStop, p) := by
    rw [decodeHsq_of_literal_bit hbit, State.full_of_le hfull, decodeLit_full]
  exact (step_hsq_command hq hp hd).trans (exec_litStop_of_full (s := s.withPos p) hfull)

/-- Settles O27: the finish of both stops, and the early end. -/
theorem hsqFinishReturnsExactlyDsizeBytes : Obligations.HsqFinishReturnsExactlyDsizeBytes := by
  refine ⟨fun field s => exec_eof_of_full field, fun s => exec_litStop_of_full, fun field s hshort => ?_⟩
  exact ⟨_, congrArg Host.Outcome.next (State.hsqFinish_of_short .eof hshort), raised_raise ..⟩

/-- Settles O38: the parse of a header that is there, its sizes and its sum read as numbers. -/
theorem headerParseReadsTheSizes : Obligations.HeaderParseReadsTheSizes := by
  refine fun s hq hp => ⟨fun hshort => ?_, fun hl => ?_⟩
  · exact ⟨_, (step_hdr hq hp).trans (congrArg _ (if_pos hshort)), raised_raise ..⟩
  · exact ⟨_, (step_hdr hq hp).trans (congrArg _ (State.hdrStep_of_header hl)), Buffer.toNat_half s.buffer 0,
      Buffer.toNat_half s.buffer 3, toNat_headerSum s.buffer, rfl, rfl⟩

end Sys2Proof.Proofs
end

section
/-! PROOFS. The frame of the instructions that store nothing: the two stops, the four launches and CLEAR. -/

namespace Sys2Proof.Machine

open Sys2Proof.Safety

/-- The input, the parameters and the model's input and read fields stay, and OUT does too unless a fault was raised. -/
structure StoresNothing (s t : State) : Prop where
  input : KeepsInput s t
  inputs : t.inputs = s.inputs
  rdata : t.rdata = s.rdata
  out : t.ph ≠ .fault → ∀ a, t.outByte a = s.outByte a

/-- The registers a stop leaves: the header latches, SIGOK, OP and OPL always; the rest unless it raised a fault. -/
structure StopKeeps (s t : State) : Prop where
  dsize : t.dsize = s.dsize
  csize : t.csize = s.csize
  csum : t.csum = s.csum
  sigok : t.sigok = s.sigok
  ctrlOp : t.ctrlOp = s.ctrlOp
  opl : t.opl = s.opl
  position : t.ph ≠ .fault → t.cur = s.cur ∧ t.q = s.q ∧ t.olen = s.olen
  record : t.ph ≠ .fault → t.cause = s.cause ∧ t.faddr = s.faddr ∧ t.finfo = s.finfo

/-- What CLEAR leaves in every phase, FAULT included: the header latches, OPL, the position and OUT (R145). -/
structure ClearKeeps (s t : State) : Prop where
  dsize : t.dsize = s.dsize
  csize : t.csize = s.csize
  csum : t.csum = s.csum
  opl : t.opl = s.opl
  cur : t.cur = s.cur
  olen : t.olen = s.olen
  q : t.q = s.q
  out : ∀ a, t.outByte a = s.outByte a

theorem storesNothing_hsqFinish (s : State) (r : StopReason) : StoresNothing s (s.hsqFinish r) := by
  rcases s.hsqFinish_cases r with ⟨-, e⟩ | ⟨-, e⟩ <;> rw [e]
  · exact ⟨⟨rfl, rfl, rfl, rfl⟩, rfl, rfl, fun _ _ => rfl⟩
  · exact ⟨keepsInput_raise .., rfl, rfl, absurd rfl⟩

theorem stopKeeps_hsqFinish (s : State) (r : StopReason) : StopKeeps s (s.hsqFinish r) := by
  rcases s.hsqFinish_cases r with ⟨-, e⟩ | ⟨-, e⟩ <;> rw [e]
  · exact ⟨rfl, rfl, rfl, rfl, rfl, rfl, fun _ => ⟨rfl, rfl, rfl⟩, fun _ => ⟨rfl, rfl, rfl⟩⟩
  · exact ⟨rfl, rfl, rfl, rfl, rfl, rfl, absurd rfl, absurd rfl⟩

theorem storesNothing_start (s : State) (op : OpCode) : StoresNothing s (s.start op) := by
  rcases s.start_cases op with ⟨-, e⟩ | ⟨-, -, e⟩ | ⟨-, -, e⟩ <;> rw [e]
  · exact ⟨⟨rfl, rfl, rfl, rfl⟩, rfl, rfl, fun _ _ => rfl⟩
  · exact ⟨⟨rfl, rfl, rfl, rfl⟩, rfl, rfl, absurd rfl⟩
  · exact ⟨⟨rfl, rfl, rfl, rfl⟩, rfl, rfl, fun _ _ => rfl⟩

theorem storesNothing_clear (s : State) (op : OpCode) : StoresNothing s (s.clear op) := by
  rcases s.clear_cases op with ⟨-, e⟩ | ⟨-, e⟩ <;> rw [e, State.storeOp_eq] <;>
    exact ⟨⟨rfl, rfl, rfl, rfl⟩, rfl, rfl, fun _ _ => rfl⟩

theorem clearKeeps_clear (s : State) (op : OpCode) : ClearKeeps s (s.clear op) := by
  rcases s.clear_cases op with ⟨-, e⟩ | ⟨-, e⟩ <;> rw [e, State.storeOp_eq] <;>
    exact ⟨rfl, rfl, rfl, rfl, rfl, rfl, rfl, fun _ => rfl⟩

/-- An instruction that does not append is a stop, a launch or a CLEAR. -/
theorem exec_of_not_appends {i : Instr} (h : appends i = false) (s : State) :
    (∃ r, exec i s = .next (s.hsqFinish r)) ∨ (∃ op, exec i s = .next (s.start op)) ∨
    (∃ op, exec i s = .next (s.clear op)) := by
  cases i with
  | litStop | eof => exact .inl ⟨_, rfl⟩
  | hsqDec | hsqSizes | f7Dec | f7Enc => exact .inr (.inl ⟨_, rfl⟩)
  | clear op => exact .inr (.inr ⟨op, rfl⟩)
  | lit | long | longx | short | esc | run | byte | tail | erun | eesc | ebyte => cases h

theorem exec_storesNothing {i : Instr} {s t : State} (h : appends i = false) (hx : exec i s = .next t) :
    StoresNothing s t := by
  rcases exec_of_not_appends h s with ⟨r, e⟩ | ⟨op, e⟩ | ⟨op, e⟩ <;> cases e.symm.trans hx
  · exact storesNothing_hsqFinish s r
  · exact storesNothing_start s op
  · exact storesNothing_clear s op

theorem exec_stopKeeps {i : Instr} {s t : State} (hi : i = .litStop ∨ ∃ field, i = .eof field)
    (hx : exec i s = .next t) : StopKeeps s t := by
  rcases hi with rfl | ⟨field, rfl⟩ <;> cases hx
  · exact stopKeeps_hsqFinish s .litFull
  · exact stopKeeps_hsqFinish s .eof

end Sys2Proof.Machine

namespace Sys2Proof.Proofs

open Sys2Proof.Machine Sys2Proof.Safety

/-- Settles O41: what the stops, the launches and CLEAR leave alike, and what the stops and CLEAR leave besides. -/
theorem storingNothingFrame : Obligations.StoringNothingFrame := by
  intro i s t hi hx
  obtain ⟨hinput, hinputs, hrdata, hout⟩ := exec_storesNothing hi hx
  refine ⟨hinput.inByte, hinput.ilen, hinput.params, hinputs, hrdata, hout, fun hstop => ?_, ?_⟩
  · obtain ⟨hdsize, hcsize, hcsum, hsigok, hop, hopl, hposition, hrecord⟩ := exec_stopKeeps hstop hx
    refine ⟨hdsize, hcsize, hcsum, hsigok, hop, hopl, fun hok => ?_⟩
    obtain ⟨hcur, hq, holen⟩ := hposition hok
    exact ⟨hcur, hq, holen, hrecord hok⟩
  · rintro ⟨op, rfl⟩
    cases hx
    obtain ⟨hdsize, hcsize, hcsum, hopl, hcur, holen, hq, hkept⟩ := clearKeeps_clear s op
    exact ⟨hdsize, hcsize, hcsum, hopl, hcur, holen, hq, hkept⟩

end Sys2Proof.Proofs
end

section
/-! PROOFS. The F7 elements one step at a time: the bytes a completing element appends (R121 to R124), which element an
F7D step runs (R120), and the one fault an F7 operation can raise (R126, R134). -/

namespace Sys2Proof

open Sys2Proof.Machine Sys2Proof.Safety

/-- Without a reference no group is longer than the run of RUN, whose count is one byte (R122). -/
theorem produced_le_of_no_reference {i : Instr} (h : distance i = 0) : produced i ≤ 255 := by
  cases i with
  | run nn vv => exact Nat.le_of_lt_succ nn.isLt
  | long field | longx field => exact absurd h (Nat.sub_ne_zero_of_lt field.isLt)
  | short count b => exact absurd h (Nat.sub_ne_zero_of_lt b.isLt)
  | lit | litStop | eof | esc | byte | tail | erun | eesc | ebyte | hsqDec | hsqSizes | f7Dec | f7Enc | clear =>
    exact Nat.le_of_ble_eq_true rfl

end Sys2Proof

namespace Sys2Proof.Machine

open Sys2Proof.Safety

/-- An F7 element with room for its bytes appends them and moves the cursor (R47). -/
theorem appendList_outcome_appended {s : State} {vs : List Byte} (k : Nat)
    (hroom : s.olen + vs.length ≤ s.params.outCap) :
    ∃ t, ((s.appendList vs).andThen (fun t => t.advance k)).outcome = .next t ∧ appended s vs k t := by
  rw [State.appendList_ok hroom]
  exact ⟨_, rfl, appended_pushList s vs k⟩

/-- An instruction that appends without a reference raises for the room it has not, at its own CUR (R47). -/
theorem exec_raised_noRoom {i : Instr} {s : State} (ha : appends i = true) (hi : distance i = 0)
    (hfull : s.params.outCap < s.olen + produced i) :
    ∃ t, exec i s = .next t ∧ raised s .sizeLimitExceeded s.cur 2 t := by
  obtain ⟨t, hx, ht⟩ := exec_appends ha s
  exact ⟨t, hx, ht.raised_noRoom (hi ▸ Nat.zero_le _) hfull⟩

/-- With no input left an F7 operation finishes (R125, R134). -/
theorem step_f7_end {s : State} (hq : s.inputs = []) (hp : s.ph = .f7d ∨ s.ph = .f7e) (hend : s.ilen ≤ s.cur) :
    step s = .next (s.finishWith s.olen) := by
  refine step_of_moved ((fetch_nil hq).trans ?_)
  rcases hp with hp | hp <;> rw [engineTurn, hp]
  · simp only [fetchF7d, decodeF7_end (d := s.buffer) hend]
  · simp only [fetchF7e, selectF7_end (d := s.buffer) hend]

/-- An F7 step that faults is an element without a reference that finds no room for its bytes (R126, R134). -/
theorem EngineStep.noRoom_of_f7_fault {s t : State} (h : EngineStep s t) (hp : s.ph = .f7d ∨ s.ph = .f7e)
    (hfault : t.ph = .fault) :
    ∃ i, distance i = 0 ∧ s.params.outCap < s.olen + produced i ∧ t = s.raise .sizeLimitExceeded s.cur 2 := by
  cases h with
  | element _ hi ht =>
    have hok : s.ph ≠ .fault := by rcases hp with hp | hp <;> rw [hp] <;> decide
    cases ht with
    | noRoom _ hroom => exact ⟨_, hi.noReference, hroom, rfl⟩
    | fits vs => exact absurd ((s.pushList_ph vs).symm.trans hfault) hok
    | badReference href => exact absurd (hi.noReference ▸ href) (Nat.not_lt_zero _)
  | finish => cases hfault
  | wait hs => rcases hp with hp | hp <;> simp [settled, hp] at hs
  | header hp' | truncated hp' | command hp' | stop hp' => simp [hp'] at hp

end Sys2Proof.Machine

namespace Sys2Proof.Proofs

open Sys2Proof.Machine Sys2Proof.Safety

/-- Settles O30: each element is one group of bytes, appended under one capacity test. -/
theorem f7DecoderElementsAppend : Obligations.F7DecoderElementsAppend := by
  refine ⟨fun s hroom => ?_, fun nn vv s hroom => ?_, fun b s hroom => ?_, fun b s hroom => ?_, fun i s hi => ?_⟩
  · exact appendList_outcome_appended (vs := [0xF7]) 3 hroom
  · exact appendList_outcome_appended 3 (by rwa [List.length_replicate])
  · exact appendList_outcome_appended (vs := [b]) 1 hroom
  · exact appendList_outcome_appended (vs := [b]) 1 hroom
  · rcases hi with rfl | ⟨nn, vv, rfl⟩ | ⟨b, rfl⟩ | ⟨b, rfl⟩ <;> exact exec_raised_noRoom rfl rfl

/-- Settles O31: the branches of the decoder in its order, each with the element the step runs. -/
theorem f7DecoderSelectsByItsWindow : Obligations.F7DecoderSelectsByItsWindow := by
  intro s hq hp _
  split
  · next hend => exact step_f7_end hq (.inl hp) (Nat.le_of_sub_eq_zero hend)
  · next hrem =>
    have hmore : ¬ s.ilen ≤ s.cur := mt Nat.sub_eq_zero_of_le hrem
    split
    · next hesc => exact step_f7d_element hq hp ((if_neg hmore).trans (if_pos hesc))
    · next hesc =>
      split
      · next hrun => exact step_f7d_element hq hp ((if_neg hmore).trans ((if_neg hesc).trans (if_pos hrun)))
      · next hrun =>
        split
        · next hwindow =>
          exact step_f7d_element hq hp
            ((if_neg hmore).trans ((if_neg hesc).trans ((if_neg hrun).trans (if_pos hwindow))))
        · next hwindow =>
          exact step_f7d_element hq hp
            ((if_neg hmore).trans ((if_neg hesc).trans ((if_neg hrun).trans (if_neg hwindow))))

/-- Settles O34: the element that faults lacks room for at most 255 bytes. -/
theorem f7OperationsFaultOnlyOnCapacity : Obligations.F7OperationsFaultOnlyOnCapacity := by
  intro s t hm hp hx hfault
  obtain ⟨u, hu, hstep⟩ := engine_step hm
  obtain ⟨i, hi, hfull, rfl⟩ := (next_unique hu hx ▸ hstep).noRoom_of_f7_fault hp hfault
  exact ⟨rfl, rfl, rfl, Nat.lt_of_lt_of_le hfull (Nat.add_le_add_left (produced_le_of_no_reference hi) s.olen)⟩

end Sys2Proof.Proofs
end

section
/-! PROOFS. The F7 encoder on a list of bytes: the run at its head (R130), the element the run selects, and the round trip
of the two codecs as functions (R131 to R136). -/

namespace Sys2Proof

open Sys2Proof.Safety

/-! ### The run at the head of a list -/

theorem leading_cons_self (v : Byte) (k : Nat) (l : List Byte) : leading v (k + 1) (v :: l) = leading v k l + 1 := by
  rw [leading, if_pos rfl]

theorem leading_cons_of_ne {a v : Byte} (h : a ≠ v) (k : Nat) (l : List Byte) : leading v k (a :: l) = 0 := by
  cases k with
  | zero => rfl
  | succ k => rw [leading, if_neg h]

theorem leading_nil (v : Byte) (k : Nat) : leading v k [] = 0 := by
  cases k <;> rfl

theorem leading_le (v : Byte) (k : Nat) (l : List Byte) : leading v k l ≤ k := by
  fun_induction leading v k l with
  | case1 | case2 | case4 => exact Nat.zero_le _
  | case3 _ _ ih => exact Nat.succ_le_succ ih

/-- The list l begins with n bytes v, as many as the encoder counts at its head (R130). -/
structure MeasuredRun (l : List Byte) (v : Byte) (n : Nat) (rest : List Byte) : Prop where
  eq : l = List.replicate n v ++ rest
  pos : 1 ≤ n
  le : n ≤ Config.f7RunMax
  ends : n = Config.f7RunMax ∨ rest.head? ≠ some v

/-- The bytes counted are all v, and the count stops at its limit or at another byte. -/
theorem leading_split (v : Byte) (k : Nat) (l : List Byte) :
    ∃ rest, l = List.replicate (leading v k l) v ++ rest ∧ (leading v k l = k ∨ rest.head? ≠ some v) := by
  fun_induction leading v k l with
  | case1 l => exact ⟨l, rfl, .inl rfl⟩
  | case2 => exact ⟨[], rfl, .inr nofun⟩
  | case3 k l ih =>
    obtain ⟨rest, hl, hend⟩ := ih
    exact ⟨rest, congrArg (v :: ·) hl, hend.imp_left (congrArg (· + 1))⟩
  | case4 k a l ha => exact ⟨a :: l, rfl, .inr (mt Option.some.inj ha)⟩

/-- A run that ends, or is as long as may be counted, is counted whole. -/
theorem leading_replicate_append {v : Byte} {n k : Nat} {rest : List Byte} (hn : n ≤ k)
    (hend : n = k ∨ rest.head? ≠ some v) : leading v k (List.replicate n v ++ rest) = n := by
  induction n generalizing k with
  | zero =>
    cases rest with
    | nil => exact leading_nil v k
    | cons a rest =>
      rcases hend with rfl | hne
      · rfl
      · exact leading_cons_of_ne (fun h => hne (congrArg some h)) k rest
  | succ n ih =>
    cases k with
    | zero => cases hn
    | succ k =>
      rw [List.replicate_succ, List.cons_append, leading_cons_self,
        ih (Nat.le_of_succ_le_succ hn) (hend.imp_left Nat.succ.inj)]

theorem exists_measuredRun (v : Byte) (l : List Byte) : ∃ n rest, MeasuredRun (v :: l) v n rest := by
  obtain ⟨rest, hl, hend⟩ := leading_split v Config.f7RunMax (v :: l)
  exact ⟨_, rest, hl, (leading_cons_self v 254 l).symm ▸ Nat.le_add_left _ _, leading_le _ _ _, hend⟩

/-! ### The input from CUR on -/

/-- What the buffer holds from an index to its end is the list l. -/
structure Buffer.Remains (d : Buffer) (a : Nat) (l : List Byte) : Prop where
  bytes : d.HasAt a l
  len : d.len = a + l.length

namespace Buffer.Remains

variable {d : Buffer} {a : Nat}

theorem ofList (l : List Byte) : (Buffer.ofList l).Remains 0 l where
  bytes := by simpa only [List.append_nil] using hasAt_ofList l []
  len := (Nat.zero_add _).symm

theorem append {l m : List Byte} (h : d.Remains a (l ++ m)) : d.Remains (a + l.length) m where
  bytes := (HasAt.append_iff.mp h.bytes).2
  len := by rw [h.len, List.length_append, Nat.add_assoc]

theorem tail {b : Byte} {l : List Byte} (h : d.Remains a (b :: l)) : d.Remains (a + 1) l := h.append (l := [b])

theorem lt {b : Byte} {l : List Byte} (h : d.Remains a (b :: l)) : a < d.len := (HasAt.cons_iff.mp h.bytes).1.1

theorem head {b : Byte} {l : List Byte} (h : d.Remains a (b :: l)) : d.byte a = b := (HasAt.cons_iff.mp h.bytes).1.2

end Buffer.Remains

theorem Buffer.exists_remains {d : Buffer} {a : Nat} (h : a ≤ d.len) : ∃ l, d.Remains a l := by
  induction hk : d.len - a generalizing a with
  | zero => exact ⟨[], HasAt.nil, by simp only [List.length_nil]; omega⟩
  | succ k ih =>
    obtain ⟨l, hbytes, hlen⟩ := ih (a := a + 1) (by omega) (by omega)
    exact ⟨d.byte a :: l, HasAt.cons_iff.mpr ⟨⟨by omega, rfl⟩, hbytes⟩, by rw [List.length_cons]; omega⟩

/-! ### The element a run selects -/

/-- The encoder measures the run at CUR in the buffer as in the list of bytes that remain. -/
theorem measureFrom_eq_leading {d : Buffer} {cur r : Nat} (v : Byte) (k : Nat) {l : List Byte}
    (h : d.Remains (cur + r) l) : measureFrom d cur v k r = r + leading v k l := by
  induction k generalizing r l with
  | zero => rfl
  | succ k ih =>
    rw [measureFrom]
    cases l with
    | nil => exact if_neg (fun hc => absurd hc.1 (Nat.not_lt_of_le (Nat.le_of_eq h.len)))
    | cons a l =>
      by_cases ha : a = v
      · subst ha
        rw [if_pos ⟨h.lt, h.head⟩, ih h.tail, leading_cons_self, Nat.add_assoc, Nat.add_comm 1]
      · rw [if_neg (fun hc => ha (h.head.symm.trans hc.2)), leading_cons_of_ne ha]
        rfl

/-- The element for a byte v that stands n times in a row (R130). -/
def runElement (v : Byte) (n : Nat) : Instr :=
  if n > Config.f7EncMin then .erun (BitVec.ofNat 8 n) v else if v = Config.f7Ctl then .eesc else .ebyte v

theorem runElement_of_lt (v : Byte) {n : Nat} (h : 3 < n) : runElement v n = .erun (BitVec.ofNat 8 n) v := if_pos h

theorem runElement_of_le (v : Byte) {n : Nat} (h : n ≤ 3) :
    runElement v n = if v = Config.f7Ctl then .eesc else .ebyte v := if_neg (Nat.not_lt_of_le h)

namespace MeasuredRun

variable {l rest : List Byte} {v : Byte} {n : Nat}

theorem leading_eq (h : MeasuredRun l v n rest) : leading v Config.f7RunMax l = n := by
  rw [h.eq]
  exact leading_replicate_append h.le h.ends

/-- The run's first byte stands before the others. -/
theorem exists_cons (h : MeasuredRun l v n rest) : ∃ m, l = v :: m := by
  obtain ⟨k, rfl⟩ := Nat.exists_eq_add_of_le' h.pos
  exact ⟨_, h.eq⟩

/-- A count is one byte. -/
theorem toNat_ofNat (h : MeasuredRun l v n rest) : (BitVec.ofNat 8 n).toNat = n := by
  rw [BitVec.toNat_ofNat]
  exact Nat.mod_eq_of_lt (Nat.lt_succ_of_le h.le)

variable {d : Buffer} {cur : Nat}

theorem measure_eq (h : MeasuredRun l v n rest) (hd : d.Remains cur l) : measure d cur = n := by
  obtain ⟨m, rfl⟩ := h.exists_cons
  rw [measure, hd.head, measureFrom_eq_leading v _ hd.tail, Nat.add_comm, ← leading_cons_self]
  exact h.leading_eq

theorem selectF7_eq (h : MeasuredRun l v n rest) (hd : d.Remains cur l) : selectF7 d cur = some (runElement v n) := by
  have hm := h.measure_eq hd
  obtain ⟨m, rfl⟩ := h.exists_cons
  rw [selectF7, if_neg (Nat.not_le_of_lt hd.lt), hm, hd.head, runElement]
  split
  · rfl
  · split <;> rfl

/-! What the run's measure says of the bytes in the buffer (R130). -/

theorem fits (h : MeasuredRun l v n rest) (hd : d.Remains cur l) : cur + n ≤ d.len := by
  rw [hd.len, h.eq, List.length_append, List.length_replicate, ← Nat.add_assoc]
  exact Nat.le_add_right _ _

theorem same (h : MeasuredRun l v n rest) (hd : d.Remains cur l) : ∀ k < n, d.byte (cur + k) = v := by
  intro k hk
  have hrun := (Buffer.HasAt.append_iff.mp (h.eq ▸ hd.bytes)).1
  rw [(hrun k (by rwa [List.length_replicate])).2, List.getD_replicate _ hk]

theorem stops (h : MeasuredRun l v n rest) (hd : d.Remains cur l) :
    n = 255 ∨ cur + n = d.len ∨ d.byte (cur + n) ≠ v := by
  have hrest := (h.eq ▸ hd).append
  rw [List.length_replicate] at hrest
  cases rest with
  | nil => exact .inr (.inl hrest.len.symm)
  | cons b rest => exact h.ends.imp_right fun hb => .inr fun he => hb (congrArg some (hrest.head.symm.trans he))

end MeasuredRun

/-! ### The encoder one element at a time -/

/-- The encoder's elements with the operands it gives them (R76, R130). -/
inductive EncoderElement : Instr → Prop
  | erun {r : Byte} (v : Byte) (h : Config.f7EncMin < r.toNat) : EncoderElement (.erun r v)
  | eesc : EncoderElement .eesc
  | ebyte {v : Byte} (h : v ≠ Config.f7Ctl) : EncoderElement (.ebyte v)

/-- At the head of l the encoder writes the element i and goes on with m. -/
structure EncodesHead (l : List Byte) (i : Instr) (m : List Byte) : Prop where
  element : EncoderElement i
  source : i.source ++ m = l
  steps : ∀ k, f7EncodeFrom (k + 1) l = encode i ++ f7EncodeFrom k m
  selected : ∀ d cur, Buffer.Remains d cur l → selectF7 d cur = some i

theorem MeasuredRun.f7EncodeFrom_eq {v : Byte} {l rest : List Byte} {n : Nat} (h : MeasuredRun (v :: l) v n rest)
    (k : Nat) :
    f7EncodeFrom (k + 1) (v :: l) =
      if n > Config.f7EncMin then encode (.erun (BitVec.ofNat 8 n) v) ++ f7EncodeFrom k rest
      else if v = Config.f7Ctl then encode .eesc ++ f7EncodeFrom k l
      else encode (.ebyte v) ++ f7EncodeFrom k l := by
  have hrest : (v :: l).drop n = rest := by rw [h.eq, List.drop_left' List.length_replicate]
  simp only [f7EncodeFrom, h.leading_eq, hrest]
  rfl

theorem exists_encodesHead (v : Byte) (l : List Byte) : ∃ i m, EncodesHead (v :: l) i m := by
  obtain ⟨n, rest, hrun⟩ := exists_measuredRun v l
  have hselect {i : Instr} (hi : runElement v n = i) (d : Buffer) (cur : Nat) (hd : d.Remains cur (v :: l)) :
      selectF7 d cur = some i := hi ▸ hrun.selectF7_eq hd
  by_cases hn : 3 < n
  · refine ⟨_, rest, .erun v ?_, ?_, fun k => (hrun.f7EncodeFrom_eq k).trans (if_pos hn),
      hselect (runElement_of_lt v hn)⟩
    · rwa [hrun.toNat_ofNat]
    · rw [Instr.source, hrun.toNat_ofNat, ← hrun.eq]
  · have hone := runElement_of_le v (Nat.le_of_not_lt hn)
    have hsteps (k : Nat) := (hrun.f7EncodeFrom_eq k).trans (if_neg hn)
    by_cases hv : v = Config.f7Ctl
    · exact ⟨_, l, .eesc, hv ▸ rfl, fun k => (hsteps k).trans (if_pos hv), hselect (hone.trans (if_pos hv))⟩
    · exact ⟨_, l, .ebyte hv, rfl, fun k => (hsteps k).trans (if_neg hv), hselect (hone.trans (if_neg hv))⟩

namespace EncoderElement

variable {i : Instr}

/-- An element stands for at least one byte. -/
theorem source_ne_nil (h : EncoderElement i) : i.source ≠ [] := by
  cases h with
  | erun v hr => exact mt (List.replicate_eq_nil_iff _).mp (Nat.ne_zero_of_lt hr)
  | eesc | ebyte => exact List.cons_ne_nil _ _

/-- An element is at most three times as long as what it stands for (R136). -/
theorem encode_length_le (h : EncoderElement i) : (encode i).length ≤ 3 * i.source.length := by
  have hpos := List.length_pos_iff.mpr h.source_ne_nil
  have hlen : (encode i).length ≤ 3 := by cases h <;> exact Nat.le_of_ble_eq_true rfl
  omega

end EncoderElement

theorem EncodesHead.length_lt {l m : List Byte} {i : Instr} (h : EncodesHead l i m) : m.length < l.length := by
  rw [← h.source, List.length_append]
  exact Nat.lt_add_of_pos_left (List.length_pos_iff.mpr h.element.source_ne_nil)

/-- As many steps as there are bytes reach the end; more change nothing. -/
theorem f7EncodeFrom_congr {j k : Nat} {l : List Byte} (hj : l.length ≤ j) (hk : l.length ≤ k) :
    f7EncodeFrom j l = f7EncodeFrom k l := by
  induction j generalizing k l with
  | zero =>
    rw [List.eq_nil_of_length_eq_zero (Nat.le_zero.mp hj)]
    cases k <;> rfl
  | succ j ih =>
    cases l with
    | nil => cases k <;> rfl
    | cons v l =>
      cases k with
      | zero => cases hk
      | succ k =>
        obtain ⟨i, m, h⟩ := exists_encodesHead v l
        have hm := h.length_lt
        rw [h.steps, h.steps, ih (k := k) (by omega) (by omega)]

theorem EncodesHead.f7Encode_eq {l m : List Byte} {i : Instr} (h : EncodesHead l i m) :
    f7Encode l = encode i ++ f7Encode m := by
  have hm := h.length_lt
  calc f7EncodeFrom l.length l
    _ = f7EncodeFrom (l.length + 1) l := f7EncodeFrom_congr (Nat.le_refl _) (Nat.le_succ _)
    _ = encode i ++ f7EncodeFrom l.length m := h.steps _
    _ = encode i ++ f7EncodeFrom m.length m := by rw [f7EncodeFrom_congr (Nat.le_of_lt hm) (Nat.le_refl _)]

/-- The encoder's recursion: what holds of the empty list and passes from what an element leaves to the whole, holds. -/
theorem EncodesHead.induction {P : List Byte → Prop} (nil : P [])
    (element : ∀ {l i m}, EncodesHead l i m → P m → P l) (l : List Byte) : P l := by
  induction hn : l.length using Nat.strong_induction_on generalizing l with
  | _ n ih =>
    subst hn
    cases l with
    | nil => exact nil
    | cons v l =>
      obtain ⟨i, m, h⟩ := exists_encodesHead v l
      exact element h (ih m.length h.length_lt m rfl)

/-! ### The decoder on an element's bytes -/

/-- A byte that is not the control byte passes through, whatever follows it (R123, R124). -/
theorem f7Decode_cons_of_ne {b : Byte} (h : b ≠ Config.f7Ctl) (l : List Byte) :
    f7Decode (b :: l) = b :: f7Decode l := by
  match l with
  | [] | [_] => rfl
  | x :: y :: rest => rw [f7Decode, if_neg (fun hb => h hb.1), if_neg (fun hb => h hb.1)]

/-- The decoder undoes each element of the encoder. -/
theorem f7Decode_encode_append {i : Instr} (h : EncoderElement i) (m : List Byte) :
    f7Decode (encode i ++ m) = i.source ++ f7Decode m := by
  cases h with
  | @erun r v hr =>
    have hr : 3 < r.toNat := hr
    have hesc : r ≠ 0x01 := fun he => absurd (he ▸ hr) (by decide)
    change f7Decode (Config.f7Ctl :: r :: v :: m) = _
    rw [f7Decode, if_neg (fun hc => hesc hc.2.1), if_pos ⟨rfl, Nat.lt_of_succ_lt hr⟩]
    rfl
  | eesc =>
    change f7Decode (Config.f7Ctl :: 0x01 :: Config.f7Ctl :: m) = _
    rw [f7Decode, if_pos ⟨rfl, rfl, rfl⟩]
    rfl
  | ebyte hv => exact f7Decode_cons_of_ne hv m

end Sys2Proof

namespace Sys2Proof.Proofs

open Sys2Proof.Safety

/-- Settles O52: the decoder reads each element of the encoding as the bytes it stands for. -/
theorem f7RoundTripsEveryBuffer : Obligations.F7RoundTripsEveryBuffer := by
  refine EncodesHead.induction rfl fun {l i m} h ih => ?_
  rw [h.f7Encode_eq, f7Decode_encode_append h.element, ih, h.source]

/-- Settles O53: each element is at most three times as long as the bytes it stands for, and the lengths add up. -/
theorem f7EncodingIsAtMostTripled : Obligations.F7EncodingIsAtMostTripled := by
  refine EncodesHead.induction (Nat.le_refl 0) fun {l i m} h ih => ?_
  have hi := h.element.encode_length_le
  rw [h.f7Encode_eq, ← h.source, List.length_append, List.length_append]
  omega

/-- Settles O18: the data is a run as the encoder measures it, and its length and byte select the element. -/
theorem f7SelectionReadsTheRun : Obligations.F7SelectionReadsTheRun := by
  refine ⟨fun r v rest hwf hend => ?_, fun k rest h1 h3 hend => ?_, fun k v rest h1 h3 hwf hend => ?_⟩
  · have hr : Config.f7EncMin < r.toNat := of_decide_eq_true hwf
    have hrun : MeasuredRun (List.replicate r.toNat v ++ rest) v r.toNat rest :=
      ⟨rfl, Nat.zero_lt_of_lt hr, Nat.le_of_lt_succ r.isLt, hend.imp_left (congrArg BitVec.toNat)⟩
    rw [hrun.selectF7_eq (.ofList _), runElement_of_lt v hr, BitVec.ofNat_toNat, BitVec.setWidth_eq]
  · have hrun : MeasuredRun (List.replicate k 0xF7 ++ rest) 0xF7 k rest :=
      ⟨rfl, h1, h3.trans (by decide), .inr hend⟩
    rw [hrun.selectF7_eq (.ofList _), runElement_of_le _ h3]
    rfl
  · have hrun : MeasuredRun (List.replicate k v ++ rest) v k rest := ⟨rfl, h1, h3.trans (by decide), .inr hend⟩
    rw [hrun.selectF7_eq (.ofList _), runElement_of_le v h3, if_neg (bne_iff_ne.mp hwf)]

end Sys2Proof.Proofs
end

section
/-! PROOFS. The F7 encoder's elements one step at a time: the bytes each appends (R131 to R133), and which element an F7E
step runs (R130, R134). -/

namespace Sys2Proof.Machine

theorem exec_runElement (v : Byte) (n : Nat) (s : State) :
    exec (runElement v n) s =
      if n > 3 then exec (.erun (BitVec.ofNat 8 n) v) s else if v = 0xF7 then exec .eesc s else exec (.ebyte v) s := by
  change _ = if n > Config.f7EncMin then _ else if v = Config.f7Ctl then _ else _
  rw [runElement, apply_ite (exec · s), apply_ite (exec · s)]

end Sys2Proof.Machine

namespace Sys2Proof.Proofs

open Sys2Proof.Machine Sys2Proof.Safety

/-- Settles O32: each element is one group of bytes, appended under one capacity test. -/
theorem f7EncoderElementsAppend : Obligations.F7EncoderElementsAppend := by
  refine ⟨fun r v s hroom => ?_, fun s hroom => ?_, fun v s hroom => ?_, fun i s hi => ?_⟩
  · exact appendList_outcome_appended (vs := [0xF7, r, v]) r.toNat hroom
  · exact appendList_outcome_appended (vs := [0xF7, 0x01, 0xF7]) 1 hroom
  · exact appendList_outcome_appended (vs := [v]) 1 hroom
  · rcases hi with ⟨r, v, rfl⟩ | rfl | ⟨v, rfl⟩ <;> exact exec_raised_noRoom rfl rfl

/-- Settles O33: the bytes that remain begin with the run measured, and its length and byte select the element. -/
theorem f7EncoderSelectsByTheRunMeasure : Obligations.F7EncoderSelectsByTheRunMeasure := by
  refine ⟨fun s hq hp hend => step_f7_end hq (.inr hp) (Nat.le_of_eq hend.symm), fun s hq hp hlt => ?_⟩
  obtain ⟨l, hl⟩ := Buffer.exists_remains (d := s.buffer) (Nat.le_of_lt hlt)
  cases l with
  | nil => exact absurd hl.len (Nat.ne_of_gt hlt)
  | cons v l =>
    obtain ⟨r, rest, hrun⟩ := exists_measuredRun v l
    have hv : s.inByte s.cur = v := hl.head
    rw [hv]
    refine ⟨r, hrun.pos, hrun.le, hrun.fits hl, hrun.same hl, hrun.stops hl, ?_⟩
    rw [step_f7e_element hq hp (hrun.selectF7_eq hl), exec_runElement]

end Sys2Proof.Proofs
end
section
/-! PROOFS. A whole F7 operation (R143, R144): a phase that runs an element for each group of bytes of its input computes
a function on byte lists, and the machine's two F7 codecs are such phases; their round trip (R135). -/

namespace Sys2Proof.Machine

open Sys2Proof.Safety

/-! ### Groups of bytes, one after another -/

theorem State.pushList_append (s : State) (vs ws : List Byte) :
    s.pushList (vs ++ ws) = (s.pushList vs).pushList ws := by
  induction vs generalizing s with
  | nil => rfl
  | cons v vs ih => exact ih (s.push v)

theorem State.pushList_advance (s : State) (k : Nat) (vs : List Byte) :
    (s.advance k).pushList vs = (s.pushList vs).advance k := by
  induction vs generalizing s with
  | nil => rfl
  | cons v vs ih => exact ih (s.push v)

theorem State.advance_advance (s : State) (j k : Nat) : (s.advance j).advance k = s.advance (j + k) := by
  simp only [State.advance, Nat.add_assoc]

@[simp] theorem State.pushList_olen (s : State) (vs : List Byte) : (s.pushList vs).olen = s.olen + vs.length := by
  rw [State.pushList_eq]

@[simp] theorem State.pushList_inputs (s : State) (vs : List Byte) : (s.pushList vs).inputs = s.inputs := by
  rw [State.pushList_eq]

@[simp] theorem State.pushList_cause (s : State) (vs : List Byte) : (s.pushList vs).cause = s.cause := by
  rw [State.pushList_eq]

theorem State.buffer_advance_pushList (s : State) (vs : List Byte) (k : Nat) :
    ((s.pushList vs).advance k).buffer = s.buffer := by
  rw [State.pushList_eq]
  rfl

/-- A group of bytes is what OUT has got longer by. -/
theorem outBytes_pushList (s : State) (vs : List Byte) :
    outBytes (s.pushList vs) (s.olen + vs.length) = outBytes s s.olen ++ vs := by
  induction vs generalizing s with
  | nil => exact (List.append_nil _).symm
  | cons v vs ih =>
    have hkept : outBytes (s.push v) s.olen = outBytes s s.olen :=
      outBytes_eq fun i hi => (s.outByte_push v i).trans (if_neg (Nat.ne_of_lt hi))
    have hpushed : outBytes (s.push v) (s.olen + 1) = outBytes s s.olen ++ [v] := by
      rw [outBytes, hkept, State.outByte_push, if_pos rfl]
    rw [List.length_cons, Nat.add_comm vs.length, ← Nat.add_assoc]
    refine (ih (s.push v)).trans ?_
    rw [State.push_olen, hpushed, List.append_assoc]
    rfl

/-- The F7 finish returns what OUT held and the group appended to it (R125, R134). -/
theorem result_finishWith_pushList (s : State) (vs : List Byte) (k : Nat) :
    result (((s.pushList vs).advance k).finishWith (s.olen + vs.length)) = some (outBytes s s.olen ++ vs) := by
  rw [← outBytes_pushList]
  exact congrArg some (outBytes_eq fun _ _ => rfl)

/-! ### A loop of F7 elements -/

/-- The element i takes the bytes `taken` from the input and appends the bytes vs; the output does not outgrow the input
by more than R207 says. -/
structure Translates (i : Instr) (taken vs : List Byte) : Prop where
  exec_eq : ∀ s, exec i s = ((s.appendList vs).andThen (fun t => t.advance taken.length)).outcome
  nonempty : taken ≠ []
  growth : vs.length ≤ 257 * taken.length

/-- In the phase ph the engine computes the function g of its input, element by element. -/
structure LoopComputes (ph : Phase) (g : List Byte → List Byte) : Prop where
  isF7 : ph = .f7d ∨ ph = .f7e
  nil : g [] = []
  element : ∀ b l, ∃ i taken vs rest, Translates i taken vs ∧ taken ++ rest = b :: l ∧ g (b :: l) = vs ++ g rest ∧
    ∀ s : State, s.inputs = [] → s.ph = ph → s.buffer.Remains s.cur (b :: l) → step s = exec i s

/-- The loop stands in the phase ph with the bytes l before it, and OUT has room for whatever they may become. -/
structure LoopAt (ph : Phase) (l : List Byte) (s : State) : Prop where
  quiet : s.inputs = []
  phase : s.ph = ph
  input : s.buffer.Remains s.cur l
  room : s.olen + 257 * l.length ≤ s.params.outCap

theorem LoopAt.exec_translates {ph : Phase} {i : Instr} {taken vs rest : List Byte} {s : State}
    (h : LoopAt ph (taken ++ rest) s) (hi : Translates i taken vs) :
    exec i s = .next ((s.pushList vs).advance taken.length) ∧
      LoopAt ph rest ((s.pushList vs).advance taken.length) := by
  have hroom := h.room
  have hgrowth := hi.growth
  rw [List.length_append] at hroom
  refine ⟨?_, ?_, ?_, ?_, ?_⟩
  · rw [hi.exec_eq, State.appendList_ok (by omega), Raising.andThen_ok, Raising.outcome_ok]
  · rw [State.advance_inputs, State.pushList_inputs, h.quiet]
  · rw [State.advance_ph, State.pushList_ph, h.phase]
  · rw [State.buffer_advance_pushList, State.advance_cur, State.pushList_cur]
    exact h.input.append
  · rw [State.advance_olen, State.pushList_olen, State.advance_params, State.pushList_params]
    omega

/-- The loop ends in the finish, with its function of the input appended and the input consumed. -/
theorem LoopComputes.runs_to_finish {ph : Phase} {g : List Byte → List Byte} (hg : LoopComputes ph g) {l : List Byte}
    {s : State} (h : LoopAt ph l s) :
    ∃ n ≤ l.length + 1, runs n s =
      .next (((s.pushList (g l)).advance l.length).finishWith (s.olen + (g l).length)) := by
  induction hn : l.length using Nat.strong_induction_on generalizing l s with
  | _ n ih =>
    subst hn
    cases l with
    | nil =>
      have hend := step_f7_end h.quiet (h.phase ▸ hg.isF7) (Nat.le_of_eq h.input.len)
      rw [hg.nil]
      exact ⟨1, Nat.le_refl 1, runs_succ_of_step hend 0⟩
    | cons b l =>
      obtain ⟨i, taken, vs, rest, hi, hl, hgl, hstep⟩ := hg.element b l
      have hpos := List.length_pos_iff.mpr hi.nonempty
      have hstep := hstep s h.quiet h.phase h.input
      rw [hgl]
      rw [← hl] at h ih ⊢
      obtain ⟨hexec, hnext⟩ := h.exec_translates hi
      rw [List.length_append] at ih ⊢
      obtain ⟨n, hn, hruns⟩ := ih rest.length (Nat.lt_add_of_pos_left hpos) hnext rfl
      refine ⟨n + 1, by omega, ?_⟩
      rw [runs_succ_of_step (hstep.trans hexec), hruns, State.pushList_advance, State.advance_advance,
        ← State.pushList_append, State.advance_olen, State.pushList_olen, List.length_append, Nat.add_assoc]

/-! ### The operation -/

theorem start_of_ready {s : State} (h : ready s) (op : OpCode) :
    s.start op = { s.wiped op with ph := firstPhase op } := by
  obtain ⟨-, hbusy, hfits⟩ := h
  rcases s.start_cases op with ⟨hb, -⟩ | ⟨-, hbig, -⟩ | ⟨-, -, e⟩
  · exact absurd (hb.symm.trans hbusy) nofun
  · exact absurd hfits (Nat.not_le_of_lt hbig)
  · exact e

theorem remains_of_holds {s : State} {data : List Byte} (h : holds s data) : s.buffer.Remains 0 data where
  bytes k hk := by
    rw [Nat.zero_add]
    exact ⟨Nat.lt_of_lt_of_eq hk h.1.symm, h.2 k hk⟩
  len := h.1.trans (Nat.zero_add _).symm

/-- START puts a ready engine before its whole input with no output yet (R140). -/
theorem loopAt_start {s : State} {data : List Byte} (op : OpCode) (hready : ready s) (hdata : holds s data)
    (hcap : 257 * s.params.inCap ≤ s.params.outCap) : LoopAt (firstPhase op) data (s.start op) := by
  rw [start_of_ready hready]
  refine ⟨hready.1, rfl, remains_of_holds hdata, ?_⟩
  have hfits : data.length ≤ s.params.inCap := hdata.1 ▸ hready.2.2
  rw [State.wiped_olen, State.wiped_params]
  omega

/-- An operation whose first phase is a loop that computes g returns g of its input. -/
theorem LoopComputes.operation {op : OpCode} {g : List Byte → List Byte} (hg : LoopComputes (firstPhase op) g)
    {s : State} {data : List Byte} (hready : ready s) (hdata : holds s data)
    (hcap : 257 * s.params.inCap ≤ s.params.outCap) :
    ∃ n t, n ≤ data.length + 1 ∧ runs n (s.start op) = .next t ∧ result t = some (g data) ∧
      t.stopr = .endIn ∧ t.cause = .noFault := by
  obtain ⟨n, hn, hruns⟩ := hg.runs_to_finish (loopAt_start op hready hdata hcap)
  have holen : (s.start op).olen = 0 := by rw [start_of_ready hready]; rfl
  have hcause : (s.start op).cause = .noFault := by rw [start_of_ready hready]; rfl
  refine ⟨n, _, hn, hruns, ?_, rfl, ?_⟩
  · rw [result_finishWith_pushList, holen]
    rfl
  · rw [State.finishWith_cause, State.advance_cause, State.pushList_cause, hcause]

/-! ### The two codecs -/

theorem translates_encoderElement {i : Instr} (h : EncoderElement i) : Translates i i.source (encode i) where
  exec_eq s := by
    cases h with
    | erun v => rw [Instr.source, List.length_replicate]; rfl
    | eesc | ebyte => rfl
  nonempty := h.source_ne_nil
  growth := h.encode_length_le.trans (Nat.mul_le_mul_right _ (by decide))

/-- The F7E loop computes the encoding (R130 to R134). -/
theorem loopComputes_f7Encode : LoopComputes .f7e f7Encode where
  isF7 := .inr rfl
  nil := rfl
  element b l := by
    obtain ⟨i, m, h⟩ := exists_encodesHead b l
    exact ⟨i, i.source, encode i, m, translates_encoderElement h.element, h.source, h.f7Encode_eq,
      fun s hq hp hl => step_f7e_element hq hp (h.selected _ _ hl)⟩

/-- The F7 window is read from the bytes that remain. -/
theorem decodeF7_of_remains {d : Buffer} {cur : Nat} {l : List Byte} (h : d.Remains cur l) :
    decodeF7 d cur = decodeF7 (Buffer.ofList l) 0 := by
  have hbyte (k : Nat) (hk : k < l.length) : d.byte (cur + k) = l.getD k 0 := (h.bytes k hk).2
  cases l with
  | nil => exact (decodeF7_end (Nat.le_of_eq h.len)).trans (decodeF7_end (Nat.le_refl 0)).symm
  | cons b l =>
    have hmore : ¬ cur + (b :: l).length ≤ cur := Nat.not_le_of_lt (Nat.lt_add_of_pos_right (Nat.succ_pos _))
    have hmore' : ¬ (b :: l).length ≤ 0 := Nat.not_succ_le_zero _
    simp only [decodeF7, Buffer.ofList, h.len, hmore, hmore', if_false, Nat.add_sub_cancel_left, Nat.sub_zero, h.head]
    by_cases hw : (b :: l).length ≥ 3
    · rw [hbyte 1 (by omega), hbyte 2 (by omega)]
      rfl
    · simp only [hw, false_and, if_false]
      rfl

/-- At the head of a list the decoder reads some element, which it replaces by what the element stands for. -/
theorem exists_decoderElement (b : Byte) (l : List Byte) :
    ∃ i vs rest, Translates i (encode i) vs ∧ encode i ++ rest = b :: l ∧ f7Decode (b :: l) = vs ++ f7Decode rest ∧
      decodeF7 (Buffer.ofList (b :: l)) 0 = some i := by
  match l with
  | [] | [_] =>
    have hi : Translates (.tail b) [b] [b] := ⟨fun _ => rfl, List.cons_ne_nil _ _, Nat.le_of_ble_eq_true rfl⟩
    exact ⟨.tail b, [b], _, hi, rfl, rfl, decodeF7_tail b (Nat.le_of_ble_eq_true rfl)⟩
  | x :: y :: rest =>
    rw [decodeF7_window, f7Decode]
    by_cases hesc : b = Config.f7Ctl ∧ x = 0x01 ∧ y = Config.f7Ctl
    · rw [if_pos hesc, if_pos hesc]
      obtain ⟨rfl, rfl, rfl⟩ := hesc
      have hi : Translates .esc (encode .esc) [Config.f7Ctl] :=
        ⟨fun _ => rfl, List.cons_ne_nil _ _, Nat.le_of_ble_eq_true rfl⟩
      exact ⟨.esc, [Config.f7Ctl], rest, hi, rfl, rfl, rfl⟩
    · rw [if_neg hesc, if_neg hesc]
      by_cases hrun : b = Config.f7Ctl ∧ Config.f7DecMin < x.toNat
      · rw [if_pos hrun, if_pos hrun]
        obtain ⟨rfl, -⟩ := hrun
        have hlen : (List.replicate x.toNat y).length ≤ 257 * 3 := by
          rw [List.length_replicate]
          exact (Nat.le_of_lt x.isLt).trans (by decide)
        exact ⟨.run x y, _, rest, ⟨fun _ => rfl, List.cons_ne_nil _ _, hlen⟩, rfl, rfl, rfl⟩
      · rw [if_neg hrun, if_neg hrun]
        have hi : Translates (.byte b) [b] [b] := ⟨fun _ => rfl, List.cons_ne_nil _ _, Nat.le_of_ble_eq_true rfl⟩
        exact ⟨.byte b, [b], x :: y :: rest, hi, rfl, rfl, rfl⟩

/-- The F7D loop computes the decoding (R120 to R125). -/
theorem loopComputes_f7Decode : LoopComputes .f7d f7Decode where
  isF7 := .inl rfl
  nil := rfl
  element b l := by
    obtain ⟨i, vs, rest, hi, hl, hdecode, hselect⟩ := exists_decoderElement b l
    exact ⟨i, encode i, vs, rest, hi, hl, hdecode,
      fun s hq hp hrem => step_f7d_element hq hp ((decodeF7_of_remains hrem).trans hselect)⟩

end Sys2Proof.Machine

namespace Sys2Proof.Proofs

open Sys2Proof.Machine Sys2Proof.Safety

/-- Settles O51: each operation computes its codec, and the decoding of the encoding is the input (O52). -/
theorem f7RoundTripsOnTheMachine : Obligations.F7RoundTripsOnTheMachine := by
  intro s data hready hdata hcap
  obtain ⟨n, t, hn, hruns, hresult, -⟩ := loopComputes_f7Encode.operation (op := .f7Enc) hready hdata hcap
  refine ⟨n, t, f7Encode data, hn, hruns, hresult, fun s2 hready2 hdata2 hcap2 => ?_⟩
  obtain ⟨m, u, hm, hruns2, hresult2, -⟩ := loopComputes_f7Decode.operation (op := .f7Dec) hready2 hdata2 hcap2
  rw [f7RoundTripsEveryBuffer data] at hresult2
  exact ⟨m, u, hm, hruns2, hresult2⟩

end Sys2Proof.Proofs
end

section
/-! PROOFS. The engine operations (R140 to R150): what launches an operation, what CLEAR stores, what BUSY ignores, and
the two F7 operations as functions of their input. -/

namespace Sys2Proof.Machine

theorem State.start_of_busy {s : State} (op : OpCode) (h : s.busy = true) : s.start op = s := if_pos h

theorem State.start_of_oversize {s : State} (op : OpCode) (hb : s.busy = false) (hl : s.params.inCap < s.ilen) :
    s.start op = (s.wiped op).raise .sizeLimitExceeded 0 1 := by
  rw [State.start, hb, if_neg Bool.false_ne_true, if_pos hl]

theorem State.start_of_fits {s : State} (op : OpCode) (hb : s.busy = false) (hl : s.ilen ≤ s.params.inCap) :
    s.start op = { s.wiped op with ph := firstPhase op } := by
  rw [State.start, hb, if_neg Bool.false_ne_true, if_neg (Nat.not_lt.mpr hl)]

theorem State.storeOp_of_busy {s : State} (op : OpCode) (h : s.busy = true) : s.storeOp op = s := if_pos h

theorem State.storeOp_of_settled {s : State} (op : OpCode) (h : Safety.settled s) :
    s.storeOp op = { s with ctrlOp := op } := by
  rw [State.storeOp, (settled_iff s).mp h, if_neg Bool.false_ne_true]

/-- While BUSY and in IDLE, CLEAR is the store of OP alone (R145). -/
theorem State.clear_of_no_result {s : State} (op : OpCode) (h : s.busy = true ∨ s.ph = .idle) :
    s.clear op = s.storeOp op := by
  refine if_neg fun hresult => ?_
  rcases hresult with hp | hp <;> simp [State.busy, hp] at h

/-- CLEAR empties every field of STATUS (R17, R145). -/
theorem State.clearResult_status (s : State) : s.clearResult.status = 0 := by
  rw [State.status, State.clearResult_ovr, State.clearResult_sigok, State.clearResult_stopr, State.clearResult_ph]
  rfl

theorem State.ilenWrite_of_busy {s : State} (v : Word) (h : s.busy = true) : s.ilenWrite v = s := if_pos h

theorem hostWriteIn_of_busy {s : State} (a : Nat) (b : Byte) (h : s.busy = true) : hostWriteIn s a b = s := if_pos h

/-- A write to a register while BUSY takes the move and nothing else (R149). -/
theorem step_writeReg_of_busy {s : State} {rest : List Input} (r : Reg) {v : Word} (hb : s.busy = true)
    (h : s.inputs = .writeReg r.offset v :: rest) : step s = .next { s with inputs := rest } := by
  by_cases hc : r = .ctrl
  · subst hc
    exact (step_ctrlWrite h).trans (congrArg _ (State.ctrlWrite_of_busy v hb))
  · by_cases hi : r = .ilen
    · subst hi
      exact (step_ilenWrite h).trans (congrArg _ (State.ilenWrite_of_busy v hb))
    · exact step_writesReadOnly (writesReadOnly_reg s v hc hi) h

end Sys2Proof.Machine

namespace Sys2Proof.Proofs

open Sys2Proof.Machine Sys2Proof.Safety

/-- Settles O49: the F7D loop computes the decoding. -/
theorem f7DecComputesTheDecoding : Obligations.F7DecComputesTheDecoding :=
  fun _ _ hready hdata hcap => loopComputes_f7Decode.operation (op := .f7Dec) hready hdata hcap

/-- Settles O50: the F7E loop computes the encoding. -/
theorem f7EncComputesTheEncoding : Obligations.F7EncComputesTheEncoding :=
  fun _ _ hready hdata hcap => loopComputes_f7Encode.operation (op := .f7Enc) hready hdata hcap

/-- Settles O35: the three endings of START, and the CTRL write whose fields name it (O19). -/
theorem startLaunchesTheOperation : Obligations.StartLaunchesTheOperation := by
  obtain ⟨hdecode, -⟩ := ctrlWriteMeansItsFields
  refine fun op s => ⟨fun hb => ?_, fun hb hl => ?_, fun hb hl => ?_, fun v rest h h8 hop => ?_⟩
  · rw [exec_startOf, State.start_of_busy op hb]
  · rw [exec_startOf, State.start_of_fits op hb hl]
    cases op <;> rfl
  · rw [exec_startOf, State.start_of_oversize op hb hl]
    exact ⟨_, rfl, raised_raise ..⟩
  · exact step_ctrl_instruction h (hdecode v op h8 hop)

/-- Settles O36: CLEAR by phase, and the CTRL write whose fields name it (O19). -/
theorem clearReturnsToIdle : Obligations.ClearReturnsToIdle := by
  obtain ⟨-, hdecode, -⟩ := ctrlWriteMeansItsFields
  refine fun op s => ⟨fun hp => ?_, fun hp => ?_, fun hb => ?_, fun v rest h h8 h9 hop => ?_⟩
  · have hclear : s.clear op = State.clearResult { s with ctrlOp := op } := by
      rw [State.clear, if_pos hp, State.storeOp_of_settled op (.inr hp)]
    exact ⟨_, congrArg Host.Outcome.next hclear, State.clearResult_status _, rfl⟩
  · exact congrArg Host.Outcome.next
      ((State.clear_of_no_result op (.inr hp)).trans (State.storeOp_of_settled op (.inl hp)))
  · exact congrArg Host.Outcome.next
      ((State.clear_of_no_result op (.inl hb)).trans (State.storeOp_of_busy op hb))
  · exact step_ctrl_instruction h (hdecode v op h8 h9 hop)

/-- Settles O39: the one step is the header parse (O38), which ends this operation. -/
theorem hsqSizesReadsTheHeaderOnly : Obligations.HsqSizesReadsTheHeaderOnly := by
  intro s hready
  have hstart := start_of_ready hready .hsqSizes
  obtain ⟨hshort, hheader⟩ := headerParseReadsTheSizes { s.wiped .hsqSizes with ph := .hdr } hready.1 rfl
  rw [hstart]
  refine ⟨fun hl => ?_, fun hl => ?_⟩
  · obtain ⟨t, hstep, hdsize, hcsize, hcsum, hsigok, ht⟩ := hheader hl
    refine ⟨t, runs_succ_of_step hstep 0, ?_, ?_, ?_, hdsize, hcsize, hcsum, hsigok, ?_, ?_⟩ <;> rw [ht] <;> rfl
  · obtain ⟨t, hstep, ht⟩ := hshort hl
    refine ⟨t, runs_succ_of_step hstep 0, ?_, ?_, ?_, ?_⟩ <;> rw [ht]

/-- Settles O43: a register, a byte of IN and a byte of OUT, each written while BUSY. -/
theorem hostWritesWhileBusyAreIgnored : Obligations.HostWritesWhileBusyAreIgnored := by
  rintro s e rest hb (⟨offset, r, v, rfl, hr⟩ | ⟨a, b, rfl, ha⟩ | ⟨a, b, rfl, ha⟩) h
  · obtain rfl := eq_offset_of_regAt hr
    exact step_writeReg_of_busy r hb h
  · exact (step_writeIn h ha).trans (congrArg _ (hostWriteIn_of_busy a b hb))
  · exact step_writesReadOnly (.inr ⟨a, b, rfl, ha⟩) h

end Sys2Proof.Proofs
end

section
/-! PROOFS. The Bit Reader mirrors the Bit Writer (R160 to R165, R90): a reader that has read just what a writer has
written goes on to read what the writer goes on to write. The writer is followed backward, from the finished bytes to
the bytes and bits laid down so far, and the reader forward. -/

namespace Sys2Proof

open Sys2Proof.Safety

/-- The sentinel stays in the queue until the word's last bit is read (R94). -/
theorem refillQ_ushiftRight_ne_zero (w : Half) {k : Nat} (hk : k ≤ 15) : refillQ w >>> k ≠ 0 := fun h0 => by
  have hlast := refillQ_ushiftRight_15 w
  rw [← Nat.add_sub_of_le hk, BitVec.shiftRight_add, h0] at hlast
  exact absurd hlast (by simp)

namespace Writer

/-! ### The writer's slot -/

/-- The slot open at index s: within the bytes, not full, and its accumulator empty above the bits written. -/
structure HasSlot (w : Writer) (s : Nat) : Prop where
  slot : w.slot = some s
  fits : s + 2 ≤ w.buf.length
  notFull : w.nbits < 16
  clear : ∀ j, w.nbits ≤ j → w.acc.getLsbD j = false

/-- What holds of the writer between two writes. -/
def Sound (w : Writer) : Prop := w.slot = none ∨ ∃ s, w.HasSlot s

/-- The bytes so far, with this word in the open slot. -/
def patched (w : Writer) (word : Half) : List Byte := ({ w with acc := word } : Writer).closed.buf

theorem patched_of_none {w : Writer} (h : w.slot = none) (word : Half) : w.patched word = w.buf := by
  simp only [patched, closed, h]

theorem HasSlot.patched_eq {w : Writer} {s : Nat} (h : w.HasSlot s) (word : Half) :
    w.patched word = backpatch w.buf s word := by
  simp only [patched, closed, h.slot]

@[simp] theorem length_backpatch (buf : List Byte) (s : Nat) (word : Half) :
    (backpatch buf s word).length = buf.length := by
  rw [backpatch, List.length_set, List.length_set]

@[simp] theorem length_patched (w : Writer) (word : Half) : (w.patched word).length = w.buf.length := by
  unfold patched closed
  cases w.slot with
  | none => rfl
  | some s => exact length_backpatch w.buf s word

theorem backpatch_append {buf : List Byte} {s : Nat} (h : s + 2 ≤ buf.length) (vs : List Byte) (word : Half) :
    backpatch (buf ++ vs) s word = backpatch buf s word ++ vs := by
  rw [backpatch, List.set_append_left _ _ (by omega), List.set_append_left _ _ (by rw [List.length_set]; omega),
    backpatch]

theorem backpatch_reserved (buf : List Byte) (word : Half) :
    backpatch (buf ++ [0, 0]) buf.length word = buf ++ [loByte word, hiByte word] := by
  simp [backpatch, List.set_append_right]

theorem half_of_backpatch {d : Buffer} {a s : Nat} {buf : List Byte} {word : Half} (hs : s + 2 ≤ buf.length)
    (h : d.HasAt a (backpatch buf s word)) : d.half (a + s) = word := by
  have hlo := (h s (by rw [length_backpatch]; omega)).2
  have hhi := (h (s + 1) (by rw [length_backpatch]; omega)).2
  refine Buffer.half_eq_iff.mpr ⟨?_, ?_⟩
  · rw [hlo, backpatch, List.getD_eq_getElem _ _ (by simp; omega)]
    simp
  · rw [Nat.add_assoc, hhi, backpatch, List.getD_eq_getElem _ _ (by simp; omega)]
    simp

/-! ### A write, as its three parts -/

theorem hasSlot_reserve {w : Writer} (h : w.Sound) : ∃ s, w.reserve.HasSlot s := by
  rcases h with hnone | ⟨s, hs⟩
  · refine ⟨w.buf.length, ?_⟩
    rw [reserve, hnone]
    exact ⟨rfl, by simp, by simp, by simp⟩
  · refine ⟨s, ?_⟩
    rw [reserve, hs.slot]
    exact hs

/-- The accumulator with one more bit (R161). -/
def accWith (b : Bool) (w : Writer) : Half := w.acc ||| ((BitVec.ofBool b).setWidth 16 <<< w.nbits)

theorem accWith_below (b : Bool) {w : Writer} {j : Nat} (hj : j < w.nbits) :
    (w.accWith b).getLsbD j = w.acc.getLsbD j := by
  simp [accWith, hj]

theorem HasSlot.accWith_at {w : Writer} {s : Nat} (h : w.HasSlot s) (b : Bool) :
    (w.accWith b).getLsbD w.nbits = b := by
  rw [accWith, BitVec.getLsbD_or, h.clear _ (Nat.le_refl _)]
  simp [h.notFull]

theorem HasSlot.accWith_above {w : Writer} {s j : Nat} (h : w.HasSlot s) (b : Bool) (hj : w.nbits < j) :
    (w.accWith b).getLsbD j = false := by
  have hne : j - w.nbits ≠ 0 := Nat.sub_ne_zero_of_lt hj
  simp [accWith, h.clear j hj.le, hne]

theorem accumulate_of_room (b : Bool) {w : Writer} (h : w.nbits + 1 < 16) :
    w.accumulate b = { w with acc := w.accWith b, nbits := w.nbits + 1 } := if_neg (Nat.ne_of_lt h)

theorem HasSlot.room_or_last {w : Writer} {s : Nat} (h : w.HasSlot s) : w.nbits + 1 < 16 ∨ w.nbits + 1 = 16 :=
  Nat.lt_or_eq_of_le h.notFull

theorem HasSlot.accumulate_last {w : Writer} {s : Nat} (h : w.HasSlot s) (b : Bool) (hn : w.nbits + 1 = 16) :
    w.accumulate b =
      { buf := backpatch w.buf s (w.accWith b), slot := none, acc := w.accWith b, nbits := 16 } := by
  rw [accumulate, if_pos hn, h.slot]
  rfl

theorem HasSlot.accumulate {w : Writer} {s : Nat} (h : w.HasSlot s) (b : Bool) (hn : w.nbits + 1 < 16) :
    (w.accumulate b).HasSlot s := by
  rw [accumulate_of_room b hn]
  exact ⟨h.slot, h.fits, hn, fun j => h.accWith_above b⟩

theorem HasSlot.sound_accumulate {w : Writer} {s : Nat} (h : w.HasSlot s) (b : Bool) : (w.accumulate b).Sound := by
  rcases h.room_or_last with hn | hn
  · exact .inr ⟨s, h.accumulate b hn⟩
  · rw [h.accumulate_last b hn]
    exact .inl rfl

/-! ### The writes of one command -/

/-- The writer after a command's control bits. -/
def writeBits (w : Writer) (bs : List Bool) : Writer := bs.foldl (fun w b => w.writeBit b) w

/-- The writer after a command's raw operand. -/
def writeBytes (w : Writer) (vs : List Byte) : Writer := { w with buf := w.buf ++ vs }

/-- Control bits first, then the raw operand (R165). -/
theorem command_eq (w : Writer) (i : Instr) : w.command i = (w.writeBits i.bits).writeBytes i.raw :=
  foldl_writeByte ..

theorem HasSlot.writeBytes {w : Writer} {s : Nat} (h : w.HasSlot s) (vs : List Byte) : (w.writeBytes vs).HasSlot s where
  slot := h.slot
  fits := by
    rw [Writer.writeBytes, List.length_append]
    exact Nat.le_add_right_of_le h.fits
  notFull := h.notFull
  clear := h.clear

theorem Sound.writeBytes {w : Writer} (h : w.Sound) (vs : List Byte) : (w.writeBytes vs).Sound :=
  h.imp id fun ⟨s, hs⟩ => ⟨s, hs.writeBytes vs⟩

theorem patched_writeBytes {w : Writer} (h : w.Sound) (vs : List Byte) (word : Half) :
    (w.writeBytes vs).patched word = w.patched word ++ vs := by
  rcases h with hnone | ⟨s, hs⟩
  · rw [patched_of_none hnone, patched_of_none (w := w.writeBytes vs) hnone, Writer.writeBytes]
  · rw [hs.patched_eq, (hs.writeBytes vs).patched_eq, ← backpatch_append hs.fits, Writer.writeBytes]

/-! ### What the finished bytes say of the writes before -/

/-- The bytes so far stand in the buffer from a on, the open slot holding a word whose low bits are the bits so far. -/
def LaidOut (w : Writer) (d : Buffer) (a : Nat) : Prop :=
  ∃ word : Half, (∀ j < w.nbits, word.getLsbD j = w.acc.getLsbD j) ∧ d.HasAt a (w.patched word)

theorem laidOut_of_finish {w : Writer} {d : Buffer} {a : Nat} (h : d.HasAt a w.finish.1) : w.LaidOut d a :=
  ⟨w.acc, fun _ _ => rfl, h⟩

section

variable {w : Writer} {d : Buffer} {a s : Nat}

/-- The word in the open slot is the one the buffer holds there. -/
theorem HasSlot.bytes_of_laidOut (h : w.HasSlot s) (hl : w.LaidOut d a) :
    d.HasAt a (backpatch w.buf s (d.half (a + s))) := by
  obtain ⟨word, -, hat⟩ := hl
  rw [h.patched_eq] at hat
  rwa [half_of_backpatch h.fits hat]

theorem laidOut_writeBytes_iff (h : w.Sound) (vs : List Byte) :
    (w.writeBytes vs).LaidOut d a ↔ w.LaidOut d a ∧ d.HasAt (a + w.buf.length) vs := by
  simp only [LaidOut, patched_writeBytes h, Buffer.HasAt.append_iff, length_patched, ← and_assoc, exists_and_right]
  exact Iff.rfl

theorem laidOut_of_reserve (hl : w.reserve.LaidOut d a) : w.LaidOut d a := by
  cases hs : w.slot with
  | some s => rwa [reserve, hs] at hl
  | none =>
    obtain ⟨word, -, hat⟩ := hl
    simp only [reserve, hs, patched, closed, backpatch_reserved] at hat
    exact ⟨w.acc, fun _ _ => rfl, (patched_of_none hs _).symm ▸ (Buffer.HasAt.append_iff.mp hat).1⟩

/-- Once a bit is written it stands in the slot's word, whether the slot is still open or not. -/
theorem HasSlot.laidOut_of_accumulate (h : w.HasSlot s) {b : Bool} (hl : (w.accumulate b).LaidOut d a) :
    w.LaidOut d a ∧ (d.half (a + s)).getLsbD w.nbits = b := by
  obtain ⟨word, hbits, hat⟩ : ∃ word : Half, (∀ j < w.nbits + 1, word.getLsbD j = (w.accWith b).getLsbD j) ∧
      d.HasAt a (backpatch w.buf s word) := by
    rcases h.room_or_last with hn | hn
    · obtain ⟨word, hbits, hat⟩ := hl
      rw [(h.accumulate b hn).patched_eq] at hat
      rw [accumulate_of_room b hn] at hbits hat
      exact ⟨word, hbits, hat⟩
    · obtain ⟨_, -, hat⟩ := hl
      rw [h.accumulate_last b hn, patched_of_none rfl] at hat
      exact ⟨_, fun _ _ => rfl, hat⟩
  refine ⟨⟨word, fun j hj => ?_, (h.patched_eq word).symm ▸ hat⟩, ?_⟩
  · rw [hbits j (Nat.lt_succ_of_lt hj), accWith_below b hj]
  · rw [half_of_backpatch h.fits hat, hbits _ (Nat.lt_succ_self _), h.accWith_at]

end

/-! ### Writes in sequence -/

/-- Writes lead from w to w': the writer stays sound, and what is laid out after them was laid out before. -/
def Leads (w w' : Writer) : Prop := w.Sound → w'.Sound ∧ ∀ d a, w'.LaidOut d a → w.LaidOut d a

theorem Leads.trans {w w' w'' : Writer} (h : w.Leads w') (h' : w'.Leads w'') : w.Leads w'' := fun hw =>
  ⟨(h' (h hw).1).1, fun d a hl => (h hw).2 d a ((h' (h hw).1).2 d a hl)⟩

theorem leads_foldl {α : Type} {f : Writer → α → Writer} (hf : ∀ w x, Leads w (f w x)) (xs : List α) (w : Writer) :
    w.Leads (xs.foldl f w) := by
  induction xs generalizing w with
  | nil => exact fun hw => ⟨hw, fun _ _ hl => hl⟩
  | cons x xs ih => exact (hf w x).trans (ih (f w x))

theorem leads_writeBit (w : Writer) (b : Bool) : w.Leads (w.writeBit b) := by
  intro hw
  obtain ⟨s, hs⟩ := hasSlot_reserve hw
  exact ⟨hs.sound_accumulate b, fun d a hl => laidOut_of_reserve (hs.laidOut_of_accumulate hl).1⟩

theorem leads_writeBits (w : Writer) (bs : List Bool) : w.Leads (w.writeBits bs) := leads_foldl leads_writeBit bs w

theorem leads_writeBytes (w : Writer) (vs : List Byte) : w.Leads (w.writeBytes vs) := fun hw =>
  ⟨hw.writeBytes vs, fun _ _ hl => ((laidOut_writeBytes_iff hw vs).mp hl).1⟩

theorem leads_command (w : Writer) (i : Instr) : w.Leads (w.command i) := by
  rw [command_eq]
  exact (leads_writeBits w i.bits).trans (leads_writeBytes _ i.raw)

/-! ### The reader behind the writer -/

/-- The reader at p has read from d just what w has written at a: the cursor is behind the last byte, and the queue
holds what is left of the slot's word. -/
structure Follows (w : Writer) (d : Buffer) (a : Nat) (p : Pos) : Prop where
  sound : w.Sound
  cur : p.cur = a + w.buf.length
  spent : w.slot = none → p.q >>> 1 = 0
  queue : ∀ s, w.slot = some s → ∃ k, w.nbits = k + 1 ∧ p.q = refillQ (d.half (a + s)) >>> k

namespace Follows

variable {d : Buffer} {a : Nat} {w : Writer} {p : Pos}

theorem empty (d : Buffer) (a : Nat) : Writer.empty.Follows d a { cur := a, q := 0 } :=
  ⟨.inl rfl, rfl, fun _ => BitVec.zero_ushiftRight, nofun⟩

/-- The next bit comes from the slot the writer has open or is about to reserve; the reader refills where the writer
reserves (R90, R161). -/
theorem getBit_reserve (h : w.Follows d a p) {s : Nat} (hs : w.reserve.HasSlot s) (hl : w.reserve.LaidOut d a) :
    getBit d p = .ok ((d.half (a + s)).getLsbD w.reserve.nbits,
      { cur := a + w.reserve.buf.length, q := refillQ (d.half (a + s)) >>> w.reserve.nbits }) := by
  have hcur := h.cur
  have hroom := hs.notFull
  cases hslot : w.slot with
  | none =>
    have hat := hs.bytes_of_laidOut hl
    have hs' := hs.slot
    simp only [reserve, hslot, Option.some.injEq] at hat hs' ⊢
    subst hs'
    rw [backpatch_reserved] at hat
    have hlen : p.cur + 2 ≤ d.len := by
      rw [hcur, Nat.add_assoc]
      exact (hat (w.buf.length + 1) (by simp)).1
    rw [getBit_of_refill (h.spent hslot) hlen, hcur]
    simp [Nat.add_assoc]
  | some s' =>
    have hs' := hs.slot
    simp only [reserve, hslot, Option.some.injEq] at hroom hs' ⊢
    subst hs'
    obtain ⟨k, hk, hq⟩ := h.queue s' hslot
    have hnext : p.q >>> 1 = refillQ (d.half (a + s')) >>> (k + 1) := by rw [hq, BitVec.shiftRight_add]
    rw [getBit_of_queue (hnext ▸ refillQ_ushiftRight_ne_zero _ (by omega)), hnext, hk, hcur, hq,
      BitVec.getLsbD_ushiftRight, Nat.add_zero, getLsbD_refillQ _ (by omega)]

theorem accumulate {s : Nat} (hs : w.HasSlot s) (b : Bool) :
    (w.accumulate b).Follows d a
      { cur := a + w.buf.length, q := refillQ (d.half (a + s)) >>> w.nbits } := by
  rcases hs.room_or_last with hn | hn
  · refine ⟨hs.sound_accumulate b, ?_, ?_, ?_⟩ <;> rw [accumulate_of_room b hn]
    · rintro (hnone : w.slot = none)
      cases hs.slot.symm.trans hnone
    · rintro s' (hs' : w.slot = some s')
      cases hs.slot.symm.trans hs'
      exact ⟨_, rfl, rfl⟩
  · refine ⟨hs.sound_accumulate b, ?_, ?_, ?_⟩ <;> rw [hs.accumulate_last b hn]
    · rw [length_backpatch]
    · intro _
      rw [Nat.succ.inj hn, refillQ_ushiftRight_15]
      exact (by decide : (1 : Half) >>> 1 = 0)
    · nofun

/-- A bit written is the next bit read. -/
theorem getBit (h : w.Follows d a p) {b : Bool} (hl : (w.writeBit b).LaidOut d a) :
    ∃ p', Sys2Proof.getBit d p = .ok (b, p') ∧ (w.writeBit b).Follows d a p' := by
  obtain ⟨s, hs⟩ := hasSlot_reserve h.sound
  obtain ⟨hl', hbit⟩ := hs.laidOut_of_accumulate hl
  have hget := h.getBit_reserve hs hl'
  rw [hbit] at hget
  exact ⟨_, hget, accumulate hs b⟩

theorem getBits (h : w.Follows d a p) {bs : List Bool} (hl : (w.writeBits bs).LaidOut d a) :
    ∃ p', Sys2Proof.getBits d bs.length p = .ok (bs, p') ∧ (w.writeBits bs).Follows d a p' := by
  induction bs generalizing w p with
  | nil => exact ⟨p, rfl, h⟩
  | cons b bs ih =>
    have hfirst := (leads_writeBits (w.writeBit b) bs (leads_writeBit w b h.sound).1).2 d a hl
    obtain ⟨p1, hget, h1⟩ := h.getBit hfirst
    obtain ⟨p2, hgets, h2⟩ := ih h1 hl
    exact ⟨p2, getBits_succ_ok_iff.mpr ⟨p1, hget, hgets⟩, h2⟩

theorem writeBytes (h : w.Follows d a p) (vs : List Byte) :
    (w.writeBytes vs).Follows d a { cur := p.cur + vs.length, q := p.q } where
  sound := h.sound.writeBytes vs
  cur := by rw [h.cur, Writer.writeBytes, List.length_append, Nat.add_assoc]
  spent := h.spent
  queue := h.queue

/-- A command written is the next command read (R64, R101, R165). -/
theorem decodeHsq (h : w.Follows d a p) {full : Bool} {i : Instr} (hwf : i.wf = true)
    (hmeets : hsqMeets full i = true) (hl : (w.command i).LaidOut d a) :
    ∃ p', Sys2Proof.decodeHsq d full p = .ok (i, p') ∧ (w.command i).Follows d a p' := by
  have hsound := (leads_writeBits w i.bits h.sound).1
  rw [command_eq] at hl ⊢
  obtain ⟨hbits, hraw⟩ := (laidOut_writeBytes_iff hsound i.raw).mp hl
  obtain ⟨p1, hget, h1⟩ := h.getBits hbits
  rw [← h1.cur] at hraw
  exact ⟨_, decodeHsq_ok_iff.mpr ⟨hwf, hmeets, p1, hget, hraw, rfl⟩, h1.writeBytes i.raw⟩

end Follows

end Writer

end Sys2Proof
end

section
/-! PROOFS. The mirror law (R167): HSQ_DEC on the file of a command list runs these commands. The list is followed by
induction: the reader stays behind the writer of the commands run so far, and OUT holds what they have produced. -/

namespace Sys2Proof.Safety

/-! ### What a command list produces -/

theorem length_copyOnto (d n : Nat) (out : List Byte) : (copyOnto d n out).length = out.length + n := by
  induction n generalizing out with
  | zero => rfl
  | succ n ih =>
    rw [copyOnto, ih, List.length_append, List.length_singleton, Nat.add_assoc, Nat.add_comm 1]

/-- A command that produces bytes is a literal, or a copy from inside the output so far. -/
inductive Produces (out : List Byte) : Instr → List Byte → Prop
  | literal (b : Byte) : Produces out (.lit b) (out ++ [b])
  | reference {i : Instr} (hpos : 1 ≤ distance i) (hd : distance i ≤ out.length) (hmeets : ∀ full, hsqMeets full i = true)
      (hexec : ∀ s, Machine.exec i s = (s.copy (distance i) (produced i)).outcome) :
      Produces out i (copyOnto (distance i) (produced i) out)

theorem produces_of_produceOne {out out' : List Byte} {i : Instr} (h : produceOne out i = some out') :
    Produces out i out' := by
  cases i with
  | lit b => cases h; exact .literal b
  | long field | longx field =>
    obtain ⟨hd, he⟩ := Option.ite_none_right_eq_some.mp h
    cases he
    exact .reference (Machine.longDistance_pos field) hd (fun _ => rfl) fun _ => rfl
  | short count b =>
    obtain ⟨hd, he⟩ := Option.ite_none_right_eq_some.mp h
    cases he
    exact .reference (Machine.shortDistance_pos b) hd (fun _ => rfl) fun _ => rfl
  | litStop | eof | esc | run | byte | tail | erun | eesc | ebyte | hsqDec | hsqSizes | f7Dec | f7Enc | clear => cases h

theorem Produces.length {out out' : List Byte} {i : Instr} (h : Produces out i out') :
    out'.length = out.length + produced i := by
  cases h with
  | literal b => exact List.length_append
  | reference => exact length_copyOnto _ _ _

theorem produce_cons {out fin : List Byte} {i : Instr} {l : List Instr} (h : produce out (i :: l) = some fin) :
    ∃ out', Produces out i out' ∧ produce out' l = some fin := by
  rw [produce] at h
  split at h
  · next out' hone => exact ⟨out', produces_of_produceOne hone, h⟩
  · cases h

/-- The output only grows. -/
theorem length_le_of_produce {l : List Instr} {out fin : List Byte} (h : produce out l = some fin) :
    out.length ≤ fin.length := by
  induction l generalizing out with
  | nil => cases h; exact Nat.le_refl _
  | cons i l ih =>
    obtain ⟨out', hone, hrest⟩ := produce_cons h
    exact (Nat.le_add_right _ _).trans (hone.length ▸ ih hrest)

end Sys2Proof.Safety

namespace Sys2Proof.Machine

open Sys2Proof.Safety

/-! ### OUT as a list -/

@[simp] theorem length_outBytes (s : State) (n : Nat) : (outBytes s n).length = n := by
  induction n with
  | zero => rfl
  | succ n ih => rw [outBytes, List.length_append, ih, List.length_singleton]

theorem getD_outBytes (s : State) {n k : Nat} (h : k < n) : (outBytes s n).getD k 0 = s.outByte k := by
  induction n with
  | zero => exact absurd h (Nat.not_lt_zero k)
  | succ n ih =>
    rw [outBytes]
    by_cases hk : k < n
    · rw [List.getD_append _ _ _ _ (by rwa [length_outBytes]), ih hk]
    · obtain rfl : k = n := by omega
      simp

theorem outBytes_withPos (s : State) (p : Pos) (n : Nat) : outBytes (s.withPos p) n = outBytes s n :=
  outBytes_eq fun _ _ => rfl

/-- The copy loop appends to OUT what a copy appends to a list (R108). -/
theorem State.copyLoop_eq_copyOnto {d : Nat} (n : Nat) {s : State} (hpos : 1 ≤ d) (hd : d ≤ s.olen) :
    ∃ vs, vs.length = n ∧ copyOnto d n (outBytes s s.olen) = outBytes s s.olen ++ vs ∧
      State.copyLoop d n s = s.pushList vs := by
  induction n generalizing s with
  | zero => exact ⟨[], rfl, (List.append_nil _).symm, rfl⟩
  | succ n ih =>
    have hbyte : (outBytes s s.olen).getD (s.olen - d) 0 = s.outByte (s.olen - d) := getD_outBytes s (by omega)
    have hpush := outBytes_pushList s [s.outByte (s.olen - d)]
    obtain ⟨vs, hlen, hlist, hloop⟩ := ih (s := s.push (s.outByte (s.olen - d))) (Nat.le_succ_of_le hd)
    refine ⟨s.outByte (s.olen - d) :: vs, congrArg (· + 1) hlen, ?_, hloop⟩
    rw [copyOnto, length_outBytes, hbyte, ← hpush]
    refine hlist.trans ?_
    rw [State.push_olen]
    refine (congrArg (· ++ vs) hpush).trans ?_
    rw [List.append_assoc, List.singleton_append]

/-- A command that produces bytes appends just these to OUT, if there is room (R102, R108). -/
theorem exec_produces {i : Instr} {s : State} {out' : List Byte} (h : Produces (outBytes s s.olen) i out')
    (hroom : out'.length ≤ s.params.outCap) :
    ∃ vs, out' = outBytes s s.olen ++ vs ∧ exec i s = .next (s.pushList vs) := by
  have hlen := h.length
  rw [length_outBytes] at hlen
  cases h with
  | literal b =>
    refine ⟨[b], rfl, ?_⟩
    rw [exec, execLit, State.append_ok (by rw [hlen] at hroom; exact hroom), Raising.outcome_ok]
    rfl
  | reference hpos hd _ hexec =>
    rw [length_outBytes] at hd
    obtain ⟨vs, -, hlist, hloop⟩ := State.copyLoop_eq_copyOnto (produced i) hpos hd
    refine ⟨vs, hlist, ?_⟩
    rw [hexec, State.copy_ok hd (hlen ▸ hroom), Raising.outcome_ok, hloop]

/-- While the output is below DSIZE a literal bit is a LIT (R102). -/
theorem hsqMeets_of_produces {i : Instr} {s : State} {out' : List Byte} (h : Produces (outBytes s s.olen) i out')
    (hsize : out'.length ≤ s.dsize.toNat) : hsqMeets s.full i = true := by
  have hlen := h.length
  cases h with
  | literal b =>
    rw [length_outBytes, produced] at hlen
    rw [State.full_of_lt (by omega)]
    rfl
  | reference _ _ hmeets => exact hmeets s.full

/-! ### The loop behind the writer -/

/-- The loop stands before the commands l and EOF, behind a writer w that has written the commands already run: what w
goes on to write is laid out in IN, and l makes of OUT the bytes fin, as many as the header declares. -/
structure MirrorsAt (w : Writer) (l : List Instr) (fin : List Byte) (s : State) : Prop where
  quiet : s.inputs = []
  phase : s.ph = .hsq
  reader : w.Follows s.buffer Config.hdrLen s.pos
  laidOut : ((l ++ [asmEof]).foldl Writer.command w).LaidOut s.buffer Config.hdrLen
  wf : ∀ i ∈ l, i.wf = true
  produces : produce (outBytes s s.olen) l = some fin
  size : s.dsize.toNat = fin.length
  room : fin.length ≤ s.params.outCap

/-- The next command written is the one the engine fetches. -/
theorem fetch_of_follows {w : Writer} {s : State} {i : Instr} {rest : List Instr} (hq : s.inputs = [])
    (hp : s.ph = .hsq) (hread : w.Follows s.buffer Config.hdrLen s.pos) (hwf : i.wf = true)
    (hmeets : hsqMeets s.full i = true) (hl : ((i :: rest).foldl Writer.command w).LaidOut s.buffer Config.hdrLen) :
    ∃ p, fetch s = .run i (s.withPos p) ∧ (w.command i).Follows s.buffer Config.hdrLen p := by
  have hnext := (Writer.leads_foldl Writer.leads_command rest _ (Writer.leads_command w i hread.sound).1).2 _ _ hl
  obtain ⟨p, hd, hread'⟩ := hread.decodeHsq hwf hmeets hnext
  exact ⟨p, (fetch_hsq hq hp).trans (by rw [fetchHsq, hd]), hread'⟩

/-- One command of the list: fetched, run, and the loop stands before the rest. -/
theorem MirrorsAt.command {w : Writer} {i : Instr} {l : List Instr} {fin : List Byte} {s : State}
    (h : MirrorsAt w (i :: l) fin s) :
    ∃ v t, fetch s = .run i v ∧ step s = .next t ∧ MirrorsAt (w.command i) l fin t ∧ t.sigok = s.sigok := by
  obtain ⟨out', hone, hrest⟩ := produce_cons h.produces
  have hfin := length_le_of_produce hrest
  have hmeets := hsqMeets_of_produces hone (h.size ▸ hfin)
  obtain ⟨p, hfetch, hread⟩ := fetch_of_follows h.quiet h.phase h.reader (h.wf i List.mem_cons_self) hmeets h.laidOut
  rw [← outBytes_withPos s p] at hone
  obtain ⟨vs, rfl, hexec⟩ := exec_produces (s := s.withPos p) hone (hfin.trans h.room)
  have hpush := State.pushList_eq vs (s.withPos p)
  have hout := outBytes_pushList (s.withPos p) vs
  refine ⟨_, _, hfetch, (step_of_run hfetch).trans hexec, ?_, by rw [hpush]; rfl⟩
  have hbuffer : ((s.withPos p).pushList vs).buffer = s.buffer := by rw [hpush]; rfl
  have hpos : ((s.withPos p).pushList vs).pos = p := by rw [hpush]; rfl
  exact {
    quiet := by rw [State.pushList_inputs]; exact h.quiet
    phase := by rw [State.pushList_ph]; exact h.phase
    reader := by rw [hbuffer, hpos]; exact hread
    laidOut := by rw [hbuffer]; exact h.laidOut
    wf := fun j hj => h.wf j (List.mem_cons_of_mem i hj)
    produces := by rw [State.pushList_olen, hout]; exact hrest
    size := by rw [hpush]; exact h.size
    room := by rw [State.pushList_params]; exact h.room }

/-- After the last command the engine meets EOF and returns what OUT holds (R106, R109). -/
theorem MirrorsAt.finish {w : Writer} {fin : List Byte} {s : State} (h : MirrorsAt w [] fin s) :
    ∃ v t, fetch s = .run asmEof v ∧ step s = .next t ∧ result t = some fin ∧ t.stopr = .eof ∧ t.ovr = false ∧
      t.sigok = s.sigok := by
  have hout : outBytes s s.olen = fin := Option.some.inj h.produces
  have hlen : s.dsize.toNat = s.olen := by rw [h.size, ← hout, length_outBytes]
  obtain ⟨p, hfetch, -⟩ := fetch_of_follows h.quiet h.phase h.reader rfl rfl h.laidOut
  refine ⟨_, _, hfetch, (step_of_run hfetch).trans (exec_eof_of_full 0 (Nat.le_of_eq hlen)), ?_, rfl, ?_, rfl⟩
  · rw [← hout, ← hlen]
    exact congrArg some (outBytes_eq fun _ _ => rfl)
  · exact decide_eq_false (Nat.not_lt_of_le (Nat.le_of_eq hlen.symm))

/-- The loop runs the list and EOF, one command a step, and ends in DONE with what the list produces. -/
theorem MirrorsAt.runs {w : Writer} {l : List Instr} {fin : List Byte} {s : State} (h : MirrorsAt w l fin s) :
    (∀ k i, (l ++ [asmEof])[k]? = some i → ∃ u v, runs k s = .next u ∧ fetch u = .run i v) ∧
    ∃ t, Safety.runs (l.length + 1) s = .next t ∧ result t = some fin ∧ t.stopr = .eof ∧ t.ovr = false ∧
      t.sigok = s.sigok := by
  induction l generalizing w s with
  | nil =>
    obtain ⟨v, t, hfetch, hstep, hend⟩ := h.finish
    refine ⟨fun k i hk => ?_, t, runs_succ_of_step hstep 0, hend⟩
    cases k with
    | zero => cases hk; exact ⟨s, v, rfl, hfetch⟩
    | succ k => cases hk
  | cons j l ih =>
    obtain ⟨v, t, hfetch, hstep, hnext, hsig⟩ := h.command
    obtain ⟨hfetches, u, hruns, hresult, hstopr, hovr, hsigok⟩ := ih hnext
    refine ⟨fun k i hk => ?_, u, (runs_succ_of_step hstep _).trans hruns, hresult, hstopr, hovr, hsigok.trans hsig⟩
    cases k with
    | zero => cases hk; exact ⟨s, v, rfl, hfetch⟩
    | succ k =>
      obtain ⟨u', v', hruns', hfetch'⟩ := hfetches k i hk
      exact ⟨u', v', (runs_succ_of_step hstep k).trans hruns', hfetch'⟩

/-! ### The file -/

/-- What the header parse reads from a file's header: the size declared, and the signature (R61, R62, R166). -/
theorem header_of_hasAt {d : Buffer} {n bodyLen : Nat} (hn : n ≤ 65535) (h : d.HasAt 0 (headerOf n bodyLen)) :
    (d.half 0).toNat = n ∧ headerSum d = Config.hsqSig := by
  simp only [headerOf, Buffer.HasAt.cons_iff] at h
  obtain ⟨⟨-, h0⟩, ⟨-, h1⟩, ⟨-, h2⟩, ⟨-, h3⟩, ⟨-, h4⟩, ⟨-, h5⟩, -⟩ := h
  refine ⟨?_, ?_⟩
  · rw [Buffer.toNat_half, h0, h1, byteAt, byteAt, BitVec.toNat_ofNat, BitVec.toNat_ofNat]
    omega
  · rw [headerSum, h0, h1, h2, h3, h4, h5]
    ring

/-- The header parse of a file leaves the loop before the file's commands, with no output yet (R100). -/
theorem mirrorsAt_of_holds {s : State} {l : List Instr} {out : List Byte} (hready : ready s)
    (hwf : ∀ i ∈ l, i.wf = true) (hproduce : produce [] l = some out) (hsize : out.length ≤ 65535)
    (hcap : out.length ≤ s.params.outCap) (hdata : holds s (hsqFile out.length (l ++ [asmEof]))) :
    ∃ t, step (s.start .hsqDec) = .next t ∧ MirrorsAt Writer.empty l out t ∧ t.sigok = true := by
  obtain ⟨hheader, hbody⟩ := Buffer.HasAt.append_iff.mp (remains_of_holds hdata).bytes
  obtain ⟨hdsize, hsum⟩ := header_of_hasAt hsize hheader
  have hlen : 6 ≤ s.ilen := by
    rw [hdata.1, hsqFile, List.length_append]
    exact Nat.le_add_right 6 _
  rw [start_of_ready hready]
  have hstep := step_hdr (s := { s.wiped .hsqDec with ph := .hdr }) hready.1 rfl
  refine ⟨_, hstep.trans (congrArg _ (State.hdrStep_of_header hlen)), ?_, ?_⟩
  · exact {
      quiet := hready.1
      phase := rfl
      reader := Writer.Follows.empty _ _
      laidOut := Writer.laidOut_of_finish hbody
      wf := hwf
      produces := hproduce
      size := hdsize
      room := hcap }
  · exact (congrArg signatureOk hsum).trans rfl

end Sys2Proof.Machine

namespace Sys2Proof.Proofs

open Sys2Proof.Machine Sys2Proof.Safety

/-- Settles O21: the header parse, then the loop behind the writer of the file's body. -/
theorem decoderMirrorsTheBitWriter : Obligations.DecoderMirrorsTheBitWriter := by
  intro s l out hready hwf hproduce hsize hcap hdata
  obtain ⟨s', hstep, hmirrors, hsig⟩ := mirrorsAt_of_holds hready hwf hproduce hsize hcap hdata
  obtain ⟨hfetches, t, hruns, hresult, hstopr, hovr, hsigok⟩ := hmirrors.runs
  refine ⟨fun k i hk => ?_, t, (runs_succ_of_step hstep _).trans hruns, hresult, hstopr, hovr, hsigok.trans hsig⟩
  obtain ⟨u, v, hruns', hfetch⟩ := hfetches k i hk
  exact ⟨u, v, (runs_succ_of_step hstep k).trans hruns', hfetch⟩

end Sys2Proof.Proofs
end

section
/-! PROOFS. The exceptions: which reads are cut short (R182), the order in which a command's faults are met (R186), and
why the default OUT_CAP is never passed (R183). -/

namespace Sys2Proof

/-! ### Reads that would pass ILEN -/

section

variable {d : Buffer} {p : Pos} {e : Trunc}

/-- A read that fails on one condition only, and always with the same index and size. -/
theorem read_error_iff {α : Type} {r : Except Trunc α} {t : Trunc} {P : Prop} (hshort : P → r = .error t)
    (hfits : ¬ P → ∃ x, r = .ok x) : r = .error e ↔ P ∧ e = t := by
  refine ⟨fun h => ?_, fun ⟨hP, he⟩ => he ▸ hshort hP⟩
  by_cases hP : P
  · exact ⟨hP, Except.error.inj (h.symm.trans (hshort hP))⟩
  · obtain ⟨x, hx⟩ := hfits hP
    cases hx.symm.trans h

theorem getBit_error_iff :
    getBit d p = .error e ↔ p.q >>> 1 = 0 ∧ d.len < p.cur + 2 ∧ e = { addr := p.cur, need := 2 } := by
  rw [← and_assoc]
  refine read_error_iff (fun ⟨hq, hl⟩ => getBit_error hq hl) (fun hfits => ?_)
  rcases getBit_cases d p with ⟨-, h⟩ | ⟨-, -, h⟩ | ⟨hq, hl, -⟩
  · exact ⟨_, h⟩
  · exact ⟨_, h⟩
  · exact absurd ⟨hq, hl⟩ hfits

theorem readByte_error_iff : readByte d p = .error e ↔ d.len < p.cur + 1 ∧ e = { addr := p.cur, need := 1 } :=
  read_error_iff readByte_error fun hl => ⟨_, readByte_ok (Nat.le_of_not_lt hl)⟩

theorem readWord_error_iff : readWord d p = .error e ↔ d.len < p.cur + 2 ∧ e = { addr := p.cur, need := 2 } :=
  read_error_iff readWord_error fun hl => ⟨_, readWord_ok (Nat.le_of_not_lt hl)⟩

end

end Sys2Proof

namespace Sys2Proof.Machine

open Sys2Proof.Safety

/-- A command cut short ends in TruncatedStream, whatever OLEN is (R182). -/
theorem step_truncated {s : State} {e : Trunc} (hm : engineMoves s) (hp : s.ph = .hsq)
    (hd : decodeHsq s.buffer s.full s.pos = .error e) : step s = .next (s.afterMove.truncated e) := by
  have hp' : s.afterMove.ph = .hsq := hp
  have hd' : decodeHsq s.afterMove.buffer s.afterMove.full s.afterMove.pos = .error e := hd
  exact step_of_moved ((fetch_engineMoves hm).trans (by rw [engineTurn, hp', fetchHsq, hd']))

/-! ### The first fault a command meets -/

/-- An appending instruction checks its reference, then the capacity, and raises nothing else (R186). -/
theorem AppendStep.first_fault {i : Instr} {s t : State} (h : AppendStep i s t) (hok : s.ph ≠ .fault) :
    if s.olen < distance i then raised s .invalidBackReference s.cur (distance i) t
    else if s.params.outCap < s.olen + produced i then raised s .sizeLimitExceeded s.cur 2 t
    else t.ph ≠ .fault := by
  split
  · next href => exact h.raised_badReference href
  · next href =>
    split
    · next hfull => exact h.raised_noRoom (Nat.le_of_not_lt href) hfull
    · next hroom =>
      rw [h.ph, if_neg (not_or.mpr ⟨href, hroom⟩)]
      exact hok

/-- A stop checks for the early end only (R109). -/
theorem State.hsqFinish_first_fault (s : State) (r : StopReason) :
    if s.olen < s.dsize.toNat then raised s .formatError s.cur 2 (s.hsqFinish r) else (s.hsqFinish r).ph ≠ .fault := by
  split
  · next hshort =>
    rw [State.hsqFinish_of_short r hshort]
    exact raised_raise ..
  · next hfull =>
    rw [State.hsqFinish_of_full r (Nat.le_of_not_lt hfull)]
    exact nofun

/-- The faults of a command the decoder can meet, in the order of R186: the reference, the capacity, the early end. -/
theorem exec_first_fault {full : Bool} {i : Instr} {s : State} (hi : hsqMeets full i = true) (hok : s.ph ≠ .fault) :
    ∃ t, exec i s = .next t ∧
      if s.olen < distance i then raised s .invalidBackReference s.cur (distance i) t
      else if s.params.outCap < s.olen + produced i ∧ appends i = true then raised s .sizeLimitExceeded s.cur 2 t
      else if appends i = false ∧ s.olen < s.dsize.toNat then raised s .formatError s.cur 2 t
      else t.ph ≠ .fault := by
  rcases (hsqMeets_cases hi).2 with ha | rfl | ⟨field, rfl⟩
  · obtain ⟨t, hx, ht⟩ := exec_appends ha s
    exact ⟨t, hx, by simpa [ha] using ht.first_fault hok⟩
  · exact ⟨_, rfl, by simpa [distance, appends] using s.hsqFinish_first_fault .litFull⟩
  · exact ⟨_, rfl, by simpa [distance, appends] using s.hsqFinish_first_fault .eof⟩

/-! ### Faults of the capacity -/

/-- No instruction appends more than the 257 bytes of the longest LONGX (R70). -/
theorem produced_le (i : Instr) : produced i ≤ 257 := by
  cases i with
  | longx _ extra => exact Nat.add_le_add_right (Nat.le_of_lt_succ extra.isLt) 2
  | long _ count => exact Nat.add_le_add_right (count.isLt.le.trans (by decide)) 2
  | short count _ => exact Nat.add_le_add_right (count.isLt.le.trans (by decide)) 2
  | run nn _ => exact nn.isLt.le.trans (by decide)
  | lit | litStop | eof | esc | byte | tail | erun | eesc | ebyte | hsqDec | hsqSizes | f7Dec | f7Enc | clear =>
    exact Nat.le_of_ble_eq_true rfl

/-- A CTRL write that raises is the START turned away for its input (R150). -/
theorem State.ctrlWrite_fault_record {s : State} {v : Word} (hok : s.ph ≠ .fault) (hf : (s.ctrlWrite v).ph = .fault) :
    (s.ctrlWrite v).faddr = 0 ∧ (s.ctrlWrite v).finfo = 1 := by
  have hstore : (s.storeOp (ctrlOpOf v)).ph ≠ .fault := (s.storeOp_ph_opl _).1 ▸ hok
  rcases s.ctrlWrite_cases v with ⟨-, e⟩ | ⟨-, -, e⟩ | ⟨-, -, e⟩ <;> rw [e] at hf ⊢
  · rcases s.start_cases (ctrlOpOf v) with ⟨-, e⟩ | ⟨-, -, e⟩ | ⟨-, -, e⟩ <;> rw [e] at hf ⊢
    · exact absurd hf hok
    · exact ⟨rfl, rfl⟩
    · have hfirst (op : OpCode) : firstPhase op ≠ .fault := by cases op <;> decide
      exact absurd hf (hfirst _)
  · rcases s.clear_cases (ctrlOpOf v) with ⟨-, e⟩ | ⟨-, e⟩ <;> rw [e] at hf
    · cases hf
    · exact absurd hf hstore
  · exact absurd hf hstore

/-- Of the outside world's moves only a CTRL write and reset touch PH (R15). -/
theorem HostStep.ph_cases {s t : State} {e : Input} (h : HostStep s e t) :
    (∃ v, t = s.ctrlWrite v) ∨ t.ph = .idle ∨ t.ph = s.ph := by
  have hkept (hr : e ≠ .reset) (hc : ∀ v, e ≠ .writeReg 0x00 v) : t.ph = s.ph := by rw [h.frame hr hc]
  cases h with
  | ctrl v => exact .inl ⟨v, rfl⟩
  | reset => exact .inr (.inl rfl)
  | readOnly => exact .inr (.inr rfl)
  | ilen | readReg | writeIn | readIn | readOut => exact .inr (.inr (hkept nofun nofun))

theorem HostStep.fault_record {s t : State} {e : Input} (h : HostStep s e t) (hok : s.ph ≠ .fault)
    (hf : t.ph = .fault) : t.faddr = 0 ∧ t.finfo = 1 := by
  rcases h.ph_cases with ⟨v, rfl⟩ | hidle | hkept
  · exact State.ctrlWrite_fault_record hok hf
  · cases hidle.symm.trans hf
  · exact absurd (hkept.symm.trans hf) hok

/-- With room for its bytes an appending instruction raises for its reference only. -/
theorem AppendStep.cause_of_room {i : Instr} {s t : State} (h : AppendStep i s t) (hok : s.ph ≠ .fault)
    (hroom : s.olen + produced i ≤ s.params.outCap) (hf : t.ph = .fault) : t.cause = .invalidBackReference := by
  cases h with
  | fits vs => exact absurd ((s.pushList_ph vs).symm.trans hf) hok
  | badReference => rfl
  | noRoom _ hfull => exact absurd hroom (Nat.not_le_of_lt hfull)

theorem State.hsqFinish_cause {s : State} {r : StopReason} (hf : (s.hsqFinish r).ph = .fault) :
    (s.hsqFinish r).cause = .formatError := by
  rcases s.hsqFinish_cases r with ⟨-, e⟩ | ⟨-, e⟩ <;> rw [e] at hf ⊢
  · cases hf
  · rfl

theorem State.hdrStep_cause {s : State} (hf : s.hdrStep.ph = .fault) : s.hdrStep.cause = .formatError := by
  rcases s.hdrStep_cases with ⟨-, e⟩ | ⟨-, -, e⟩ | ⟨-, -, e⟩ <;> rw [e] at hf ⊢
  · rfl
  · cases hf
  · cases hf

section

variable {s : State} (h : EngineInv s) (hg : Growth s) (hcap : 257 * s.params.inCap ≤ s.params.outCap)
include h hg hcap

/-- R183: OLEN is at most 257 bytes for each byte before CUR, a command or element consumes one more, and no input is
longer than IN_CAP. -/
theorem room_of_growth (hb : s.busy = true) (i : Instr) {c : Nat} (hlt : s.cur < c) (hle : c ≤ s.ilen) :
    s.olen + produced i ≤ s.params.outCap := by
  have hproduced := produced_le i
  have hgrown := hg hb
  have hinput := h.inputFits hb
  omega

/-- The engine's own step never raises SizeLimitExceeded under the growth bound (R183). -/
theorem EngineStep.cause_ne_sizeLimitExceeded {t : State} (ht : EngineStep s t) (hok : s.ph ≠ .fault)
    (hf : t.ph = .fault) : t.cause ≠ .sizeLimitExceeded := by
  cases ht with
  | wait => exact absurd hf hok
  | header => rw [State.hdrStep_cause hf]; decide
  | truncated => exact nofun
  | command hp hd ha ht =>
    obtain ⟨hlt, hle⟩ := decodeHsq_advances hd ha
    rw [ht.cause_of_room hok (room_of_growth h hg hcap (inLoop.busy (.inl hp)) _ hlt hle) hf]
    decide
  | stop => rw [State.hsqFinish_cause hf]; decide
  | @element i hd hi _ ht =>
    have hpos := hd.elim (fun hd => decodeF7_consumed_pos hd.2) (fun hd => selectF7_consumed_pos hd.2)
    have hroom := room_of_growth h hg hcap (inLoop.busy (.inr (hd.imp And.left And.left))) i
      (Nat.lt_add_of_pos_right hpos) hi.fits
    rw [ht.cause_of_room hok hroom hf]
    decide
  | finish => cases hf

end

end Sys2Proof.Machine

namespace Sys2Proof.Proofs

open Sys2Proof.Machine Sys2Proof.Safety

/-- Settles O5: the engine's own step finds room for what it appends, and the host's only raise is START's. -/
theorem defaultOutputCapacityNeverExceeded : Obligations.DefaultOutputCapacityNeverExceeded := by
  intro s t h hg hcap hx hok hf hcause
  rcases step_cases hx with ⟨-, hstep⟩ | ⟨e, hstep⟩
  · exact absurd hcause (hstep.cause_ne_sizeLimitExceeded h.afterMove hg hcap hok hf)
  · exact hstep.fault_record hok hf

/-- Settles O9: the reads come first, since the command is decoded before it runs; then its own checks in their order. -/
theorem commandFaultsComeInOrder : Obligations.CommandFaultsComeInOrder := by
  intro s hq hp
  cases hd : decodeHsq s.buffer s.full s.pos with
  | error e => exact ⟨_, step_hsq_truncated hq hp hd, raised_raise ..⟩
  | ok r =>
    have hok : (s.withPos r.2).ph ≠ .fault := by rw [State.withPos_ph, hp]; decide
    obtain ⟨t, hx, ht⟩ := exec_first_fault (decodeHsq_meets hd) hok
    exact ⟨t, (step_hsq_command hq hp hd).trans hx, ht⟩

/-- Settles O26: a reference is checked before anything is appended, and an EOF can only come too early. -/
theorem invalidBackReferenceIsRaised : Obligations.InvalidBackReferenceIsRaised := by
  refine ⟨fun i s happ href => ?_, fun field s t hx hf => ?_⟩
  · obtain ⟨t, hx, ht⟩ := exec_appends happ s
    exact ⟨t, hx, ht.raised_badReference href⟩
  · cases hx
    exact State.hsqFinish_cause hf

/-- Settles O8: the three reads, and the command one of them cuts short. -/
theorem truncatedReadsRaise : Obligations.TruncatedReadsRaise :=
  ⟨fun _ _ _ => getBit_error_iff, fun _ _ _ => readByte_error_iff, fun _ _ _ => readWord_error_iff,
    fun _ _ hm hp hd => ⟨_, step_truncated hm hp hd, raised_raise ..⟩⟩

/-- Settles O37: `raise` writes its record and leaves the engine in FAULT, where it waits. -/
theorem raiseEndsTheOperation : Obligations.RaiseEndsTheOperation :=
  fun s x addr info => ⟨raised_raise s x addr info, fun hq => step_fault hq (s.raise_ph x addr info)⟩

end Sys2Proof.Proofs
end

section
/-! PROOFS. How long an operation runs (R207): every step of a loop ends it or consumes input, so the input left bounds
the steps left. -/

namespace Sys2Proof.Machine

open Sys2Proof.Safety

/-! ### The moves still to come -/

theorem AppendStep.inputs {i : Instr} {s t : State} (h : AppendStep i s t) : t.inputs = s.inputs := by
  cases h with
  | fits vs => exact s.pushList_inputs vs
  | badReference | noRoom => rfl

theorem State.hsqFinish_inputs (s : State) (r : StopReason) : (s.hsqFinish r).inputs = s.inputs := by
  rcases s.hsqFinish_cases r with ⟨-, e⟩ | ⟨-, e⟩ <;> rw [e]
  exact s.raise_inputs ..

theorem State.hdrStep_inputs (s : State) : s.hdrStep.inputs = s.inputs := by
  rcases s.hdrStep_cases with ⟨-, e⟩ | ⟨-, -, e⟩ | ⟨-, -, e⟩ <;> rw [e] <;> rfl

/-- The engine's step leaves the moves of the outside world to come. -/
theorem EngineStep.inputs {s t : State} (h : EngineStep s t) : t.inputs = s.inputs := by
  cases h with
  | wait | truncated | finish => rfl
  | header => exact s.hdrStep_inputs
  | command _ _ _ ht => exact ht.inputs
  | stop => exact (s.withPos _).hsqFinish_inputs _
  | element _ _ ht => exact ht.inputs

/-! ### A step of a loop -/

theorem AppendStep.ph_kept_or_fault {i : Instr} {s t : State} (h : AppendStep i s t) :
    t.ph = s.ph ∨ t.ph = .fault := by
  cases h with
  | fits vs => exact .inl (s.pushList_ph vs)
  | badReference | noRoom => exact .inr rfl

/-- A step from a loop stays in the loop or ends the operation (R15). -/
theorem EngineStep.stays_or_ends {s t : State} (h : EngineStep s t) (hloop : inLoop s) :
    t.ph = s.ph ∨ t.ph = .done ∨ t.ph = .fault := by
  cases h with
  | wait => exact .inl rfl
  | header hp => exact absurd hp hloop.phase_ne.1
  | truncated => exact .inr (.inr rfl)
  | command _ _ _ ht => exact ht.ph_kept_or_fault.imp_right .inr
  | stop => exact .inr ((s.withPos _).hsqFinish_ends _)
  | element _ _ ht => exact ht.ph_kept_or_fault.imp_right .inr
  | finish => exact .inr (.inl rfl)

/-! ### Steps to the end -/

/-- The operation reaches DONE or FAULT in at most n steps (R146). -/
def EndsWithin (n : Nat) (s : State) : Prop :=
  ∃ k t, k ≤ n ∧ runs k s = .next t ∧ (t.ph = .done ∨ t.ph = .fault)

namespace EndsWithin

variable {n : Nat} {s t : State}

theorem of_ended (h : s.ph = .done ∨ s.ph = .fault) : EndsWithin n s := ⟨0, s, Nat.zero_le n, rfl, h⟩

theorem of_step (hstep : step s = .next t) : EndsWithin n t → EndsWithin (n + 1) s
  | ⟨k, u, hk, hruns, hu⟩ => ⟨k + 1, u, Nat.succ_le_succ hk, (runs_succ_of_step hstep k).trans hruns, hu⟩

theorem mono {m : Nat} (hmn : m ≤ n) : EndsWithin m s → EndsWithin n s
  | ⟨k, u, hk, hu⟩ => ⟨k, u, hk.trans hmn, hu⟩

/-- A loop takes a step for each byte of input left at most, and one to end (R110, R126). -/
theorem of_inLoop (hq : s.inputs = []) (hloop : inLoop s) : EndsWithin (s.ilen - s.cur + 1) s := by
  induction hn : s.ilen - s.cur using Nat.strong_induction_on generalizing s with
  | _ n ih =>
    obtain ⟨t, hx, ht⟩ := engine_step (.inl hq)
    have ht : EngineStep s t := by rwa [State.afterMove, hq, List.tail_nil, ← hq] at ht
    rcases ht.stays_or_ends hloop with hph | hend
    · obtain ⟨hlt, hle⟩ := ht.cur_lt hloop hph
      have hless : t.ilen - t.cur < n := by rw [ht.keepsInput.ilen]; omega
      have hloop' : inLoop t := by rwa [inLoop, hph]
      exact (of_step hx (ih _ hless (ht.inputs.trans hq) hloop' rfl)).mono (Nat.succ_le_succ hless)
    · exact of_step hx (of_ended hend)

/-- The header parse ends the operation, or leaves the loop of HSQ_DEC the input behind the header (R100). -/
theorem of_hdr (hq : s.inputs = []) (hp : s.ph = .hdr) :
    EndsWithin (1 + if s.opl = .hsqSizes then 0 else s.ilen - 5) s := by
  rw [Nat.add_comm]
  refine of_step (step_hdr hq hp) ?_
  rcases s.hdrStep_cases with ⟨-, e⟩ | ⟨-, -, e⟩ | ⟨hl, ho, e⟩ <;> rw [e]
  · exact of_ended (.inr rfl)
  · exact of_ended (.inl rfl)
  · have hl : 6 ≤ s.ilen := hl
    rw [if_neg ho, show s.ilen - 5 = s.ilen - 6 + 1 by omega]
    have hq' : State.inputs { s.parsed with ph := .hsq } = [] := hq
    exact of_inLoop hq' (.inl rfl)

end EndsWithin

end Sys2Proof.Machine

namespace Sys2Proof.Proofs

open Sys2Proof.Machine Sys2Proof.Safety

/-- Settles O47: the HSQ operations start with the header parse, the F7 operations in their loop at CUR = 0. -/
theorem everyOperationEndsWithinItsBound : Obligations.EveryOperationEndsWithinItsBound := by
  intro s op hready
  change EndsWithin (stepBound op s.ilen) (s.start op)
  rw [start_of_ready hready]
  have hq : State.inputs { s.wiped op with ph := firstPhase op } = [] := hready.1
  cases op with
  | hsqDec | hsqSizes => exact .of_hdr hq rfl
  | f7Dec => exact .of_inLoop hq (.inr (.inl rfl))
  | f7Enc => exact .of_inLoop hq (.inr (.inr rfl))

end Sys2Proof.Proofs
end

section
/-! PROOFS. The growth of the output (R207): at most 257 bytes for each byte of input consumed. -/

namespace Sys2Proof.Safety.Growth

open Sys2Proof.Machine

variable {s : State}

theorem of_settled (h : settled s) : Growth s := fun hb => nomatch hb.symm.trans ((settled_iff s).mp h)

/-- No instruction appends more than 257 bytes (R70), so a cursor moved past CUR keeps the bound. -/
theorem produced_le (hg : Growth s) (hb : s.busy = true) (i : Instr) {c : Nat} (hlt : s.cur < c) :
    s.olen + produced i ≤ 257 * c := by
  have hgrown := hg hb
  have hproduced := Machine.produced_le i
  omega

theorem hdrStep (holen : s.olen = 0) : Growth s.hdrStep := by
  rcases s.hdrStep_cases with ⟨-, e⟩ | ⟨-, -, e⟩ | ⟨-, -, e⟩ <;> rw [e]
  · exact of_settled (.inr (.inr rfl))
  · exact of_settled (.inr (.inl rfl))
  · exact fun _ => holen.trans_le (Nat.zero_le _)

theorem storeOp (hg : Growth s) (op : OpCode) : Growth (s.storeOp op) := by
  rw [State.storeOp_eq]
  exact hg

/-- An operation is launched with no output (R140). -/
theorem start (hg : Growth s) (op : OpCode) : Growth (s.start op) := by
  rcases s.start_cases op with ⟨-, e⟩ | ⟨-, -, e⟩ | ⟨-, -, e⟩ <;> rw [e]
  · exact hg
  · exact of_settled (.inr (.inr rfl))
  · exact fun _ => Nat.zero_le _

theorem clear (hg : Growth s) (op : OpCode) : Growth (s.clear op) := by
  rcases s.clear_cases op with ⟨-, e⟩ | ⟨-, e⟩ <;> rw [e]
  · exact of_settled (.inl rfl)
  · exact hg.storeOp op

theorem ctrlWrite (hg : Growth s) (v : Word) : Growth (s.ctrlWrite v) := by
  rcases s.ctrlWrite_cases v with ⟨-, e⟩ | ⟨-, -, e⟩ | ⟨-, -, e⟩ <;> rw [e]
  · exact hg.start _
  · exact hg.clear _
  · exact hg.storeOp _

end Sys2Proof.Safety.Growth

namespace Sys2Proof.Machine

open Sys2Proof.Safety

theorem AppendStep.growth {i : Instr} {s t : State} (h : AppendStep i s t)
    (hle : s.olen + produced i ≤ 257 * (s.cur + consumed i)) : Growth t := by
  cases h with
  | fits vs hlen =>
    intro _
    rwa [State.advance_olen, State.pushList_olen, hlen, State.advance_cur, State.pushList_cur]
  | badReference | noRoom => exact Growth.of_settled (.inr (.inr rfl))

theorem EngineStep.growth {s t : State} (ht : EngineStep s t) (h : EngineInv s) (hg : Growth s) : Growth t := by
  cases ht with
  | wait => exact hg
  | header hp => exact Growth.hdrStep (h.hdrStart hp).2
  | truncated => exact Growth.of_settled (.inr (.inr rfl))
  | @command hp i p hd ha _ ht =>
    refine ht.growth ?_
    rw [(hsqMeets_cases (decodeHsq_meets hd)).1]
    exact hg.produced_le (inLoop.busy (.inl hp)) i (decodeHsq_advances hd ha).1
  | stop => exact Growth.of_settled (.inr ((s.withPos _).hsqFinish_ends _))
  | @element i hd _ _ ht =>
    have hpos := hd.elim (fun hd => decodeF7_consumed_pos hd.2) (fun hd => selectF7_consumed_pos hd.2)
    exact ht.growth (hg.produced_le (inLoop.busy (.inr (hd.imp And.left And.left))) i (Nat.lt_add_of_pos_right hpos))
  | finish => exact Growth.of_settled (.inr (.inl rfl))

theorem HostStep.growth {s t : State} {e : Input} (h : HostStep s e t) (hg : Growth s) : Growth t := by
  have hkept (hr : e ≠ .reset) (hc : ∀ v, e ≠ .writeReg 0x00 v) : Growth t := by
    rw [h.frame hr hc]
    exact hg
  cases h with
  | ctrl v => exact hg.ctrlWrite v
  | reset => exact Growth.of_settled (.inl rfl)
  | readOnly => exact hg
  | ilen | readReg | writeIn | readIn | readOut => exact hkept nofun nofun

end Sys2Proof.Machine

namespace Sys2Proof.Proofs

open Sys2Proof.Machine Sys2Proof.Safety

/-- Settles O4: the engine's step appends no more than the input it consumes allows, and a move of the outside world
leaves a running operation alone or starts one with no output. -/
theorem stepKeepsOutputGrowthBounded : Obligations.StepKeepsOutputGrowthBounded := by
  intro s t h hg hx
  rcases step_cases hx with ⟨-, hstep⟩ | ⟨e, hstep⟩
  · exact hstep.growth h.afterMove hg
  · exact hstep.growth hg

end Sys2Proof.Proofs
end

section
/-! PROOFS. The state reset leaves (R28, R200). -/

namespace Sys2Proof.Machine

open Sys2Proof.Safety

/-- STATUS of the reset state: IDLE, and every flag clear (R17, R28). -/
theorem State.hardReset_status (s : State) : s.hardReset.status = 0 := by
  simp only [State.status, State.hardReset, State.reset]
  rfl

theorem zeroed_hardReset (s : State) : zeroed s.hardReset :=
  ⟨rfl, rfl, rfl, rfl, rfl, rfl, rfl, rfl, rfl, s.hardReset_status, rfl, rfl, rfl, rfl, rfl, rfl, rfl, rfl⟩

/-- A byte that no write has listed since reset is free (U4). -/
theorem free_of_unlisted {s : State} (hin : s.inMem = []) (hout : s.outMem = []) (a : Nat) :
    s.inByte a = Config.freeInByte s.inGen a ∧ s.outByte a = Config.freeOutByte s.outGen a := by
  rw [State.inByte, State.outByte, hin, hout]
  exact ⟨rfl, rfl⟩

end Sys2Proof.Machine

namespace Sys2Proof.Proofs

open Sys2Proof.Machine Sys2Proof.Safety

/-- Settles O1: reset is one move, from any phase; the reset state is the same but for the model's own fields and the
parameters, and in its IDLE the engine waits. -/
theorem resetClearsTheEngine : Obligations.ResetClearsTheEngine :=
  ⟨fun s rest h => ⟨_, step_reset h, zeroed_hardReset { s with inputs := rest }, rfl, free_of_unlisted rfl rfl⟩,
    zeroed_hardReset State.reset, free_of_unlisted rfl rfl, step_of_moved rfl⟩

end Sys2Proof.Proofs
end
